-- ==== Sys2Proof/Word.lean ====
section
/-! DEFINITION. The word types of the block: the byte of every memory (R40), the 6-bit code (R8) and the 2-bit value (R91). -/

namespace Sys2Proof

/-- A byte, an unsigned number in 0..255 (R8). -/
abbrev Byte := BitVec 8

/-- A *code* or *6-bit value*, an unsigned number in 0..63 (R8). -/
abbrev Code := BitVec 6

/-- A 2-bit value: one of the three operands of PAIR.ENC (R91). -/
abbrev Crumb := BitVec 2

end Sys2Proof
end

