-- ==== Sys2Proof/Config.lean ====
section
/-! DEFINITION. The constants of R6, the open parameters of R7 as one plain record with their constraints, the defaults R7 recommends, and the free values: opaque constants that no proof can evaluate. -/

namespace Sys2Proof

/-! ### The constants of R6 -/

/-- TRACKS (R6). -/
abbrev Config.tracks : Nat := 35
/-- SECTORS (R6). -/
abbrev Config.sectors : Nat := 16
/-- SECTOR_BYTES (R6). -/
abbrev Config.sectorBytes : Nat := 256
/-- IMG_BYTES (R6). -/
abbrev Config.imgBytes : Nat := 143360
/-- ENC_SECTOR (R6). -/
abbrev Config.encSector : Nat := 416
/-- ENC_TRACK (R6). -/
abbrev Config.encTrack : Nat := 6656
/-- TRACK_BITS (R6). -/
abbrev Config.trackBits : Nat := 53248
/-- PHYS_MAX (R6). -/
abbrev Config.physMax : Nat := 69
/-- LOG_MAX (R6). -/
abbrev Config.logMax : Nat := 34
/-- NIC_LEN (R6). -/
abbrev Config.nicLen : Nat := 343
/-- DATA_OFF (R6). -/
abbrev Config.dataOff : Nat := 53
/-- CAP_MAX (R6). -/
abbrev Config.capMax : Nat := 350
/-- INSTALL_MAX (R6). -/
abbrev Config.installMax : Nat := 349
/-- SCAN_MAX (R6). -/
abbrev Config.scanMax : Nat := 450
/-- SKIP_INDEX (R6). -/
abbrev Config.skipIndex : Nat := 25
/-- SYNC_LEAD (R6). -/
abbrev Config.syncLead : Nat := 22
/-- SYNC_MID (R6). -/
abbrev Config.syncMid : Nat := 5
/-- SYNC_TAIL (R6). -/
abbrev Config.syncTail : Nat := 14
/-- VOLUME (R6). -/
abbrev Config.volume : Byte := 0xFE#8

/-! ### The open parameters of R7 -/

/-- SKIP_ORIGIN: where the 25-bit count starts (R135). -/
inductive SkipOrigin where
  /-- from the assertion of write-enable -/
  | we
  /-- from the completed byte 0xD5 -/
  | sync
deriving DecidableEq, Repr, Inhabited

/-- SKIP_PRELOAD: the count at synchronization, 0 or 8 (R135); read only when SKIP_ORIGIN = SYNC. -/
inductive SkipPreload where
  | zero
  | eight
deriving DecidableEq, Repr, Inhabited

/-- The number SKIP_PRELOAD stands for. -/
def SkipPreload.count : SkipPreload → Nat
  | .zero => 0
  | .eight => 8

/-- The open parameters of R7, fixed for one instance of the block. RESET_LASTPHASE is not among them: it is drawn
anew at every reset (`Config.resetLastPhase`). -/
structure Params where
  /-- NIB_TABLE (R73) -/
  nib : Vector Byte 64
  /-- LUT0 (R75) -/
  lut0 : Vector Code 4
  /-- LUT1 (R75) -/
  lut1 : Vector Code 4
  /-- LUT2 (R75) -/
  lut2 : Vector Code 4
  /-- P2L: physical slot to logical sector (R76) -/
  p2l : Vector (Fin 16) 16
  /-- SELF_SYNC (R67) -/
  selfSync : Vector Byte 12
  /-- DATA_EPILOGUE (R71) -/
  dataEpilogue : Vector Byte 3
  /-- BRINGUP_TRACK (R149) -/
  bringup : Fin 35
  /-- SKIP_ORIGIN (R135) -/
  skipOrigin : SkipOrigin
  /-- SKIP_PRELOAD (R135) -/
  skipPreload : SkipPreload
deriving DecidableEq, Repr

/-- The constraint R7 and R75 put on one two-bit table: injective, and its set bits lie inside `mask`. -/
abbrev Params.LutOk (lut : Vector Code 4) (mask : Code) : Prop :=
  lut.toList.Nodup ∧ ∀ x ∈ lut.toList, x &&& ~~~mask = 0#6

/-- The constraints R7 puts on the open parameters. -/
abbrev Params.Admissible (P : Params) : Prop :=
  P.nib.toList.Nodup ∧ (∀ b ∈ P.nib.toList, b.msb = true) ∧
  Params.LutOk P.lut0 0x03#6 ∧ Params.LutOk P.lut1 0x0C#6 ∧ Params.LutOk P.lut2 0x30#6 ∧
  P.p2l.toList.Nodup

/-- The default of NIB_TABLE (R73). PRESUMED by the spec: general knowledge of the disk format. -/
def Config.nibDefault : Vector Byte 64 :=
  #v[0x96#8, 0x97#8, 0x9A#8, 0x9B#8, 0x9D#8, 0x9E#8, 0x9F#8, 0xA6#8,
     0xA7#8, 0xAB#8, 0xAC#8, 0xAD#8, 0xAE#8, 0xAF#8, 0xB2#8, 0xB3#8,
     0xB4#8, 0xB5#8, 0xB6#8, 0xB7#8, 0xB9#8, 0xBA#8, 0xBB#8, 0xBC#8,
     0xBD#8, 0xBE#8, 0xBF#8, 0xCB#8, 0xCD#8, 0xCE#8, 0xCF#8, 0xD3#8,
     0xD6#8, 0xD7#8, 0xD9#8, 0xDA#8, 0xDB#8, 0xDC#8, 0xDD#8, 0xDE#8,
     0xDF#8, 0xE5#8, 0xE6#8, 0xE7#8, 0xE9#8, 0xEA#8, 0xEB#8, 0xEC#8,
     0xED#8, 0xEE#8, 0xEF#8, 0xF2#8, 0xF3#8, 0xF4#8, 0xF5#8, 0xF6#8,
     0xF7#8, 0xF9#8, 0xFA#8, 0xFB#8, 0xFC#8, 0xFD#8, 0xFE#8, 0xFF#8]

/-- The default of P2L (R76). PRESUMED by the spec. -/
def Config.p2lDefault : Vector (Fin 16) 16 :=
  #v[0, 7, 14, 6, 13, 5, 12, 4, 11, 3, 10, 2, 9, 1, 8, 15]

/-- The default of SELF_SYNC (R67). PRESUMED by the spec. -/
def Config.selfSyncDefault : Vector Byte 12 :=
  #v[0x03#8, 0xFC#8, 0xFF#8, 0x3F#8, 0xCF#8, 0xF3#8, 0xFC#8, 0xFF#8, 0x3F#8, 0xCF#8, 0xF3#8, 0xFC#8]

/-- The parameters at the defaults of R7, with the two that have none as arguments. -/
def Config.defaults (origin : SkipOrigin) (preload : SkipPreload) : Params :=
  { nib := Config.nibDefault
    lut0 := #v[0x00#6, 0x02#6, 0x01#6, 0x03#6]
    lut1 := #v[0x00#6, 0x08#6, 0x04#6, 0x0C#6]
    lut2 := #v[0x00#6, 0x20#6, 0x10#6, 0x30#6]
    p2l := Config.p2lDefault
    selfSync := Config.selfSyncDefault
    dataEpilogue := #v[0xDE#8, 0xAA#8, 0xEB#8]
    bringup := 0
    skipOrigin := origin
    skipPreload := preload }

/-! ### Free values: no body, so nothing proved can depend on what they are -/

/-- SKIP_ORIGIN of the reset state's instance: R7 gives no default (R135: "do not guess"). -/
opaque Config.skipOrigin : SkipOrigin
/-- SKIP_PRELOAD of the reset state's instance: R7 gives no default. -/
opaque Config.skipPreload : SkipPreload
/-- RESET_LASTPHASE, drawn freely at each reset (R7, R22): the argument is the number of the draw. -/
opaque Config.resetLastPhase : Nat → Fin 4
/-- `advance(rot)` of FAC.TICK step 4 (R35, R148): number of the draw, and the old value. -/
opaque Config.rotAdvance : Nat → Nat → Nat
/-- The opaque `name` the host supplies with a FAC.LOAD (R147): the argument is the number of the draw. -/
opaque Config.imageName : Nat → Nat
/-- The boolean the storage collaborator answers to a `saveTrack` (R147, R159): the argument is the number of the draw. -/
opaque Config.storageAnswer : Nat → Bool

/-- The parameters of the instance that State.reset holds: the defaults of R7, the two parameters without a default free. -/
def Config.params : Params := Config.defaults Config.skipOrigin Config.skipPreload

end Sys2Proof
end

