-- ==== Sys2Proof/Syntax.lean ====
section
/-! DEFINITION. The operations of the block (R81): one constructor per row of spec/opcode_table.json, and the operation classes of R79. -/

namespace Sys2Proof

/-- The 38 operations of R81 with their operands, in the order of the table. Track and sector numbers are plain
numbers, arrays are lists of bytes; `Instr.wellFormed` says which values are operands of the operation. -/
inductive Instr where
  /-- NIB.ENC `c` (R85); an operand wider than 6 bits is reduced by the operation -/
  | nibEnc (c : Byte)
  /-- NIB.DEC `b` (R86) -/
  | nibDec (b : Byte)
  /-- N44.ENC `v` (R88) -/
  | n44Enc (v : Byte)
  /-- N44.DEC `b0, b1` (R89) -/
  | n44Dec (b0 b1 : Byte)
  /-- PAIR.ENC `a0, a1, a2` (R91) -/
  | pairEnc (a0 a1 a2 : Crumb)
  /-- PAIR.DEC `x` (R92) -/
  | pairDec (x : Code)
  /-- ILV.P2L `p` (R93) -/
  | ilvP2l (p : BitVec 4)
  /-- ILV.L2P `l` (R94) -/
  | ilvL2p (l : BitVec 4)
  /-- NIC.ENC `raw[256]` (R97) -/
  | nicEnc (raw : List Byte)
  /-- ADDR.ENC `vol, trk, sec` (R99) -/
  | addrEnc (vol trk sec : Byte)
  /-- SEC.ENC `T, p, raw[256]` (R100) -/
  | secEnc (T : Nat) (p : BitVec 4) (raw : List Byte)
  /-- TRK.ENC `img, T` (R101): the image operand by its leading bytes, every byte after them 0x00 -/
  | trkEnc (img : List Byte) (T : Nat)
  /-- NIC.DEC `enc[343 or more]` (R104) -/
  | nicDec (enc : List Byte)
  /-- ADDR.DEC `f[14]` (R107) -/
  | addrDec (f : List Byte)
  /-- FIELD.DEC `d[346]` (R108) -/
  | fieldDec (d : List Byte)
  /-- STP.SAMPLE `sample` (R109, R110) -/
  | stpSample (sample : BitVec 4)
  /-- STP.FORCE `T, sample` (R114) -/
  | stpForce (T : Nat) (sample : BitVec 4)
  /-- RD.CLK (R118) -/
  | rdClk
  /-- RD.STOP (R121) -/
  | rdStop
  /-- RD.RESTORE (R122) -/
  | rdRestore
  /-- RD.START (R123) -/
  | rdStart
  /-- EV.SEL `level`, the new level of `pin.sel_n` (R127) -/
  | evSel (level : Bool)
  /-- WC.ENTER (R129) -/
  | wcEnter
  /-- WC.EDGE (R132) -/
  | wcEdge
  /-- WC.TICK (R133) -/
  | wcTick
  /-- WC.EXIT (R138) -/
  | wcExit
  /-- WC.APPEND `b` (R134) -/
  | wcAppend (b : Bool)
  /-- WC.COMPLETE (R139) -/
  | wcComplete
  /-- TC.SELECT `T` (R144) -/
  | tcSelect (T : Nat)
  /-- TC.RECONCILE (R145) -/
  | tcReconcile
  /-- TC.REBUILD `T` (R146) -/
  | tcRebuild (T : Nat)
  /-- FAC.TICK `sample` (R148) -/
  | facTick (sample : BitVec 4)
  /-- FAC.LOAD `bytes`, of any length (R149) -/
  | facLoad (bytes : List Byte)
  /-- DBG.RDSEC `t, s` (R150) -/
  | dbgRdsec (t sec : Nat)
  /-- DBG.WRSEC `t, s, data[256]` (R151) -/
  | dbgWrsec (t sec : Nat) (data : List Byte)
  /-- DBG.SETTRK `T, sample` (R152) -/
  | dbgSettrk (T : Nat) (sample : BitVec 4)
  /-- DBG.DUMP (R153) -/
  | dbgDump
  /-- RESET (R176) -/
  | reset
deriving DecidableEq, Repr

/-- The operation classes of R79. -/
inductive OpClass where
  /-- F: pure function -/
  | function
  /-- E: event -/
  | event
  /-- C: command -/
  | command
  /-- I: internal, a named part of another operation -/
  | internal
deriving DecidableEq, Repr

/-- The class column of R81. -/
def Instr.opClass : Instr → OpClass
  | .nibEnc _ => .function
  | .nibDec _ => .function
  | .n44Enc _ => .function
  | .n44Dec _ _ => .function
  | .pairEnc _ _ _ => .function
  | .pairDec _ => .function
  | .ilvP2l _ => .function
  | .ilvL2p _ => .function
  | .nicEnc _ => .function
  | .addrEnc _ _ _ => .function
  | .secEnc _ _ _ => .function
  | .trkEnc _ _ => .function
  | .nicDec _ => .function
  | .addrDec _ => .function
  | .fieldDec _ => .function
  | .stpSample _ => .event
  | .stpForce _ _ => .internal
  | .rdClk => .event
  | .rdStop => .internal
  | .rdRestore => .internal
  | .rdStart => .internal
  | .evSel _ => .event
  | .wcEnter => .event
  | .wcEdge => .event
  | .wcTick => .event
  | .wcExit => .event
  | .wcAppend _ => .internal
  | .wcComplete => .internal
  | .tcSelect _ => .command
  | .tcReconcile => .internal
  | .tcRebuild _ => .internal
  | .facTick _ => .command
  | .facLoad _ => .command
  | .dbgRdsec _ _ => .command
  | .dbgWrsec _ _ _ => .command
  | .dbgSettrk _ _ => .command
  | .dbgDump => .command
  | .reset => .event

end Sys2Proof
end

