-- ==== Sys2Proof/WellFormed.lean ====
section
/-! DEFINITION. Which operand values are operands of an operation: the ranges and array lengths of R81 and of the operation rules. -/

namespace Sys2Proof

/-- A logical track number, 0..34 (R6). -/
abbrev isTrack (T : Nat) : Bool := decide (T ≤ 34)

/-- A number one operand byte can carry; the commands that raise E_RANGE take any of them (R160). -/
abbrev isByteNumber (n : Nat) : Bool := decide (n ≤ 255)

/-- The operand constraints of R81: 256 bytes of a sector (R97), 343 or more of a payload (R104), 14 of an address
field (R107), 346 of a data field (R108), at most IMG_BYTES of an image (R101), a track 0..34 where the operation
never sees another (R101, R114, R146), a byte number where it raises E_RANGE itself (R160). -/
def Instr.wellFormed : Instr → Bool
  | .nibEnc _ => true
  | .nibDec _ => true
  | .n44Enc _ => true
  | .n44Dec _ _ => true
  | .pairEnc _ _ _ => true
  | .pairDec _ => true
  | .ilvP2l _ => true
  | .ilvL2p _ => true
  | .nicEnc raw => raw.length == 256
  | .addrEnc _ _ _ => true
  | .secEnc T _ raw => isTrack T && raw.length == 256
  | .trkEnc img T => isTrack T && decide (img.length ≤ 143360)
  | .nicDec enc => decide (343 ≤ enc.length)
  | .addrDec f => f.length == 14
  | .fieldDec d => d.length == 346
  | .stpSample _ => true
  | .stpForce T _ => isTrack T
  | .rdClk => true
  | .rdStop => true
  | .rdRestore => true
  | .rdStart => true
  | .evSel _ => true
  | .wcEnter => true
  | .wcEdge => true
  | .wcTick => true
  | .wcExit => true
  | .wcAppend _ => true
  | .wcComplete => true
  | .tcSelect T => isByteNumber T
  | .tcReconcile => true
  | .tcRebuild T => isTrack T
  | .facTick _ => true
  | .facLoad _ => true
  | .dbgRdsec t sec => isByteNumber t && isByteNumber sec
  | .dbgWrsec t sec data => isByteNumber t && isByteNumber sec && data.length == 256
  | .dbgSettrk T _ => isByteNumber T
  | .dbgDump => true
  | .reset => true

end Sys2Proof
end

