-- ==== Sys2Proof/Decode.lean ====
section
/-! DEFINITION. The decoder of an operation from bytes: the 8-bit id of R80 and R81, then the operands in the order of R81; and the encoder. The ids are the spec's labels. How operands follow them is the model's (P2 writes `60 01` for `FAC.TICK 0b0001`): a scalar is one byte with its unused high bits 0; an array of fixed length is its bytes; a sequence of any length is, element by element, 0x01 and the byte, closed by 0x00. -/

namespace Sys2Proof

/-- Why a byte sequence is no operation. -/
inductive DecodeError where
  /-- no byte at all -/
  | empty
  /-- an id R81 does not list: unassigned (R80, R82 h) -/
  | unassigned (id : Byte)
  /-- the bytes end inside the operands -/
  | truncated
  /-- an operand byte outside the operand's range -/
  | operand (b : Byte)
  /-- an image operand of more than IMG_BYTES bytes (R101) -/
  | tooLong
deriving DecidableEq, Repr

/-- A decoded value with the bytes left over, or the reason there is none. -/
abbrev Decoded (α : Type) := Except DecodeError (α × List Byte)

/-- Decode further, from the bytes a first decoding left over. -/
def Decoded.andThen {α β : Type} (d : Decoded α) (f : α → List Byte → Decoded β) : Decoded β :=
  match d with
  | .error e => .error e
  | .ok (a, rest) => f a rest

/-- Turn the decoded value into another one. -/
def Decoded.as {α β : Type} (d : Decoded α) (f : α → β) : Decoded β :=
  d.andThen fun a rest => .ok (f a, rest)

/-- One operand byte. -/
def readByte : List Byte → Decoded Byte
  | [] => .error .truncated
  | b :: rest => .ok (b, rest)

/-- An operand of `w` bits, at most 8, in one byte with the other bits 0. -/
def readBits (w : Nat) (bs : List Byte) : Decoded (BitVec w) :=
  (readByte bs).andThen fun b rest =>
    if b.toNat < 2 ^ w then .ok (b.setWidth w, rest) else .error (.operand b)

/-- A one-bit operand: a level or an appended bit. -/
def readLevel (bs : List Byte) : Decoded Bool :=
  (readByte bs).andThen fun b rest =>
    if b = 0x00#8 then .ok (false, rest) else if b = 0x01#8 then .ok (true, rest) else .error (.operand b)

/-- A track or sector number as one byte. -/
def readNumber (bs : List Byte) : Decoded Nat :=
  (readByte bs).as fun b => b.toNat

/-- A logical track 0..34. -/
def readTrack (bs : List Byte) : Decoded Nat :=
  (readByte bs).andThen fun b rest =>
    if b.toNat ≤ 34 then .ok (b.toNat, rest) else .error (.operand b)

/-- An array of `n` bytes. -/
def readArray : Nat → List Byte → Decoded (List Byte)
  | 0, bs => .ok ([], bs)
  | _ + 1, [] => .error .truncated
  | n + 1, b :: rest => (readArray n rest).as fun l => b :: l

/-- A sequence of any length: 0x01 before each byte, 0x00 after the last. -/
def readSequence : List Byte → Decoded (List Byte)
  | [] => .error .truncated
  | m :: rest =>
    if m = 0x00#8 then .ok ([], rest)
    else if m = 0x01#8 then
      match rest with
      | [] => .error .truncated
      | b :: rest' => (readSequence rest').as fun l => b :: l
    else .error (.operand m)

/-- The image operand of TRK.ENC: at most IMG_BYTES leading bytes (R101). -/
def readImage (bs : List Byte) : Decoded (List Byte) :=
  (readSequence bs).andThen fun l rest =>
    if l.length ≤ 143360 then .ok (l, rest) else .error .tooLong

/-- Decode one operation from the head of `bytes` (R81); the rest is what follows it. -/
def decode : List Byte → Decoded Instr
  | [] => .error .empty
  | id :: bs =>
    match id.toNat with
    | 0x00 => (readByte bs).as .nibEnc
    | 0x01 => (readByte bs).as .nibDec
    | 0x02 => (readByte bs).as .n44Enc
    | 0x03 => (readByte bs).andThen fun b0 bs => (readByte bs).as fun b1 => .n44Dec b0 b1
    | 0x04 => (readBits 2 bs).andThen fun a0 bs => (readBits 2 bs).andThen fun a1 bs =>
        (readBits 2 bs).as fun a2 => .pairEnc a0 a1 a2
    | 0x05 => (readBits 6 bs).as .pairDec
    | 0x06 => (readBits 4 bs).as .ilvP2l
    | 0x07 => (readBits 4 bs).as .ilvL2p
    | 0x10 => (readArray 256 bs).as .nicEnc
    | 0x11 => (readByte bs).andThen fun vol bs => (readByte bs).andThen fun trk bs =>
        (readByte bs).as fun sec => .addrEnc vol trk sec
    | 0x12 => (readTrack bs).andThen fun T bs => (readBits 4 bs).andThen fun p bs =>
        (readArray 256 bs).as fun raw => .secEnc T p raw
    | 0x13 => (readImage bs).andThen fun img bs => (readTrack bs).as fun T => .trkEnc img T
    | 0x18 => (readArray 343 bs).andThen fun enc bs => (readSequence bs).as fun more => .nicDec (enc ++ more)
    | 0x19 => (readArray 14 bs).as .addrDec
    | 0x1A => (readArray 346 bs).as .fieldDec
    | 0x20 => (readBits 4 bs).as .stpSample
    | 0x21 => (readTrack bs).andThen fun T bs => (readBits 4 bs).as fun sample => .stpForce T sample
    | 0x30 => .ok (.rdClk, bs)
    | 0x31 => .ok (.rdStop, bs)
    | 0x32 => .ok (.rdRestore, bs)
    | 0x33 => .ok (.rdStart, bs)
    | 0x34 => (readLevel bs).as .evSel
    | 0x40 => .ok (.wcEnter, bs)
    | 0x41 => .ok (.wcEdge, bs)
    | 0x42 => .ok (.wcTick, bs)
    | 0x43 => .ok (.wcExit, bs)
    | 0x44 => (readLevel bs).as .wcAppend
    | 0x45 => .ok (.wcComplete, bs)
    | 0x50 => (readNumber bs).as .tcSelect
    | 0x51 => .ok (.tcReconcile, bs)
    | 0x52 => (readTrack bs).as .tcRebuild
    | 0x60 => (readBits 4 bs).as .facTick
    | 0x61 => (readSequence bs).as .facLoad
    | 0x68 => (readNumber bs).andThen fun t bs => (readNumber bs).as fun sec => .dbgRdsec t sec
    | 0x69 => (readNumber bs).andThen fun t bs => (readNumber bs).andThen fun sec bs =>
        (readArray 256 bs).as fun data => .dbgWrsec t sec data
    | 0x6A => (readNumber bs).andThen fun T bs => (readBits 4 bs).as fun sample => .dbgSettrk T sample
    | 0x6B => .ok (.dbgDump, bs)
    | 0x70 => .ok (.reset, bs)
    | _ => .error (.unassigned id)

/-! ### The encoder -/

/-- The id column of R81. -/
def Instr.id : Instr → Byte
  | .nibEnc _ => 0x00#8
  | .nibDec _ => 0x01#8
  | .n44Enc _ => 0x02#8
  | .n44Dec _ _ => 0x03#8
  | .pairEnc _ _ _ => 0x04#8
  | .pairDec _ => 0x05#8
  | .ilvP2l _ => 0x06#8
  | .ilvL2p _ => 0x07#8
  | .nicEnc _ => 0x10#8
  | .addrEnc _ _ _ => 0x11#8
  | .secEnc _ _ _ => 0x12#8
  | .trkEnc _ _ => 0x13#8
  | .nicDec _ => 0x18#8
  | .addrDec _ => 0x19#8
  | .fieldDec _ => 0x1A#8
  | .stpSample _ => 0x20#8
  | .stpForce _ _ => 0x21#8
  | .rdClk => 0x30#8
  | .rdStop => 0x31#8
  | .rdRestore => 0x32#8
  | .rdStart => 0x33#8
  | .evSel _ => 0x34#8
  | .wcEnter => 0x40#8
  | .wcEdge => 0x41#8
  | .wcTick => 0x42#8
  | .wcExit => 0x43#8
  | .wcAppend _ => 0x44#8
  | .wcComplete => 0x45#8
  | .tcSelect _ => 0x50#8
  | .tcReconcile => 0x51#8
  | .tcRebuild _ => 0x52#8
  | .facTick _ => 0x60#8
  | .facLoad _ => 0x61#8
  | .dbgRdsec _ _ => 0x68#8
  | .dbgWrsec _ _ _ => 0x69#8
  | .dbgSettrk _ _ => 0x6A#8
  | .dbgDump => 0x6B#8
  | .reset => 0x70#8

/-- A one-bit operand as its byte. -/
def levelByte (b : Bool) : Byte := if b then 0x01#8 else 0x00#8

/-- A sequence of any length as its bytes. -/
def sequenceBytes : List Byte → List Byte
  | [] => [0x00#8]
  | b :: l => 0x01#8 :: b :: sequenceBytes l

/-- The operand bytes of an operation, in the order of R81. -/
def Instr.operandBytes : Instr → List Byte
  | .nibEnc c => [c]
  | .nibDec b => [b]
  | .n44Enc v => [v]
  | .n44Dec b0 b1 => [b0, b1]
  | .pairEnc a0 a1 a2 => [a0.setWidth 8, a1.setWidth 8, a2.setWidth 8]
  | .pairDec x => [x.setWidth 8]
  | .ilvP2l p => [p.setWidth 8]
  | .ilvL2p l => [l.setWidth 8]
  | .nicEnc raw => raw
  | .addrEnc vol trk sec => [vol, trk, sec]
  | .secEnc T p raw => BitVec.ofNat 8 T :: p.setWidth 8 :: raw
  | .trkEnc img T => sequenceBytes img ++ [BitVec.ofNat 8 T]
  | .nicDec enc => enc.take 343 ++ sequenceBytes (enc.drop 343)
  | .addrDec f => f
  | .fieldDec d => d
  | .stpSample sample => [sample.setWidth 8]
  | .stpForce T sample => [BitVec.ofNat 8 T, sample.setWidth 8]
  | .rdClk => []
  | .rdStop => []
  | .rdRestore => []
  | .rdStart => []
  | .evSel level => [levelByte level]
  | .wcEnter => []
  | .wcEdge => []
  | .wcTick => []
  | .wcExit => []
  | .wcAppend b => [levelByte b]
  | .wcComplete => []
  | .tcSelect T => [BitVec.ofNat 8 T]
  | .tcReconcile => []
  | .tcRebuild T => [BitVec.ofNat 8 T]
  | .facTick sample => [sample.setWidth 8]
  | .facLoad bytes => sequenceBytes bytes
  | .dbgRdsec t sec => [BitVec.ofNat 8 t, BitVec.ofNat 8 sec]
  | .dbgWrsec t sec data => BitVec.ofNat 8 t :: BitVec.ofNat 8 sec :: data
  | .dbgSettrk T sample => [BitVec.ofNat 8 T, sample.setWidth 8]
  | .dbgDump => []
  | .reset => []

/-- The bytes of a well-formed operation: its id, then its operands. -/
def encode (i : Instr) : List Byte := i.id :: i.operandBytes

/-! ### The table's words -/

/-- The bytes of a table word: the `nbits` bits of `w`, lowest byte first, and operand bytes 0x00 after them, enough
for the longest operation with zero operands (346 bytes of FIELD.DEC and more). -/
def tableBytes (nbits w : Nat) : List Byte :=
  (List.range (nbits / 8)).map (fun k => BitVec.ofNat 8 (w >>> (8 * k))) ++ List.replicate 352 0x00#8

/-- The operation the decoder reads from a word of spec/opcode_table.json. -/
def decodeTableWord (nbits w : Nat) : Option Instr :=
  match decode (tableBytes nbits w) with
  | .ok (i, _) => some i
  | .error _ => none

end Sys2Proof
end

