-- ==== Sys2Proof/Machine/State.lean ====
section
/-! DEFINITION. The state of the block (R13 to R36) as plain data, the reasons an operation stops, what an operation answers, and the state after reset (R39, R176). -/

namespace Sys2Proof.Machine

/-! ### Memories -/

/-- The writable address spaces of R40. -/
inductive Space where
  /-- IMG, the RawImage -/
  | img
  /-- ENC, the EncodedTrack -/
  | enc
  /-- RDBUF, the reader's snapshot -/
  | rdbuf
  /-- CAP, the CaptureBuffer -/
  | cap
deriving DecidableEq, Repr

/-- The size column of R40. -/
def Space.size : Space → Nat
  | .img => 143360
  | .enc => 6656
  | .rdbuf => 6656
  | .cap => 350

/-- The contents of one address space: (address, byte) pairs, addresses strictly rising, no byte equal to what an
unlisted address reads as (`Memory.wf` in Machine/Ops.lean). -/
abbrev Memory := List Host.Cell

/-! ### Answers, faults, refusals -/

/-- The error outcomes of R155. None is latched in the block's own state. -/
inductive ErrorOutcome where
  /-- E_DECODE, with the index 0..342 of the first invalid byte (R156) -/
  | decode (index : Nat)
  /-- E_PROLOGUE (R156) -/
  | prologue
  /-- E_NOSYNC (R157) -/
  | noSync
  /-- E_NOSECTOR (R158) -/
  | noSector
  /-- E_NOTDATA (R161) -/
  | notData
  /-- E_STORAGE (R159) -/
  | storage
  /-- E_RANGE (R160) -/
  | range
deriving DecidableEq, Repr

/-- The four values and the prologue test of ADDR.DEC (R107). -/
structure AddressField where
  ok : Bool
  vol : Byte
  trk : Byte
  sec : Byte
  chk : Byte
deriving DecidableEq, Repr

/-- How an operation ended (R11) and the value it returns, if it returns one (the result column of R81). -/
inductive Answer where
  /-- ok, no value returned -/
  | ok
  /-- ignored: the guard was false (R11) -/
  | ignored
  /-- one byte: NIB.ENC, N44.DEC -/
  | byte (b : Byte)
  /-- a code or `invalid`: NIB.DEC -/
  | codeOrInvalid (c : Option Code)
  /-- a pair of bytes: N44.ENC -/
  | pair (b0 b1 : Byte)
  /-- a code: PAIR.ENC -/
  | code (c : Code)
  /-- three 2-bit values: PAIR.DEC -/
  | crumbs (a0 a1 a2 : Crumb)
  /-- a sector or slot number: ILV.P2L, ILV.L2P -/
  | sector (n : Fin 16)
  /-- an array of bytes: the encoders, NIC.DEC, FIELD.DEC, DBG.RDSEC -/
  | bytes (l : List Byte)
  /-- an address field: ADDR.DEC -/
  | address (f : AddressField)
  /-- FIELD.DEC's skip outcome (R108) -/
  | skip (e : ErrorOutcome)
  /-- DBG.DUMP: the tag, the dirty bit, and the data when the tag is valid (R153) -/
  | dump (track : Option Nat) (dirty : Bool) (data : Option (List Byte))
  /-- an error outcome (R155) -/
  | error (e : ErrorOutcome)
deriving DecidableEq, Repr

/-- Why a step stops with a fault. -/
inductive Fault where
  /-- An access at or beyond the end of an address space (R40, R50). Raised by `readBlock` and `writeBlock` of
  Machine/Ops.lean. Safe: no state that meets `State.Inv` gets there with a well-formed operation. -/
  | outOfSpace (sp : Space) (addr : Nat)
deriving DecidableEq, Repr

/-- Why a step is refused: the spec gives the operation no meaning there (R11). Every refusal is safe: the step has no
next state, so nothing is claimed of it. -/
inductive Refusal where
  /-- An instruction of the table whose arm in exec has no meaning yet. Raised by no arm of this model. -/
  | notModelled (mnemonic : String)
  /-- TC.SELECT, TC.RECONCILE, TC.REBUILD, FAC.LOAD, DBG.WRSEC, DBG.SETTRK while a capture is armed (R55). -/
  | duringCapture
  /-- A read of an address space that holds no value yet (R14, R24, R39). Raised by the operations that read it. -/
  | noValue (sp : Space)
  /-- TC.RECONCILE issued while `cache.track = INVALID`: there is no track to write to (R144, R145). -/
  | noCachedTrack
  /-- The pending bytes begin with an id that names no operation (R80, R82, U22). Raised by the step. -/
  | unassigned (id : Byte)
  /-- The pending bytes end inside an operation's operands. Raised by the step. -/
  | truncated
  /-- An operand outside its range in the pending bytes. Raised by the step. -/
  | badOperand
deriving DecidableEq, Repr

/-! ### The components of the state -/

/-- HeadState (R19 to R22). -/
structure Head where
  /-- `head.phys`, 0..69 (R19) -/
  phys : Nat
  /-- `head.log`, always `head.phys >> 1` (R20) -/
  log : Nat
  /-- `head.phase` (R21) -/
  phase : Fin 4
  /-- `head.last` (R22) -/
  last : Fin 4
deriving DecidableEq, Repr

/-- The EncodedTrack (R15 to R17). -/
structure Cache where
  /-- `cache.data`, the space ENC (R15); it holds a value exactly while `cache.track` is valid -/
  data : Memory
  /-- `cache.track`; `none` is INVALID (R16) -/
  track : Option Nat
  /-- `cache.dirty` (R17) -/
  dirty : Bool
deriving DecidableEq, Repr

/-- The BitstreamReader (R23 to R25). -/
structure Reader where
  /-- `rd.run` (R23) -/
  run : Bool
  /-- `rd.buf`, the space RDBUF (R24) -/
  buf : Memory
  /-- the model's mark that `rd.buf` holds a value (R24, R130: "If the reader has never been started since reset") -/
  filled : Bool
  /-- `rd.byte`, 0..6655 (R25) -/
  byte : Nat
  /-- `rd.bit`, 0..7 (R25) -/
  bit : Nat
deriving DecidableEq, Repr

/-- `wc.state` (R27). `locatingSector` and `flushing` exist only inside WC.ENTER and WC.EXIT (R142). -/
inductive CaptureState where
  | idle
  | locatingSector
  | sampling
  | flushing
deriving DecidableEq, Repr

/-- The WriteCaptureEngine (R27 to R33). -/
structure Capture where
  /-- `wc.state` (R27) -/
  state : CaptureState
  /-- `wc.pos`, 0..6655 (R28) -/
  pos : Nat
  /-- `wc.known` (R28) -/
  known : Bool
  /-- `wc.phys`, 0..15; holds no value while `wc.known = 0` (R28) -/
  phys : Nat
  /-- `wc.log`, 0..15; holds no value while `wc.known = 0` (R28) -/
  log : Nat
  /-- `wc.shift`, newest bit in bit 0 (R29) -/
  shift : Byte
  /-- `wc.nbits`, 0..7 (R29) -/
  nbits : Nat
  /-- `wc.synced` (R30) -/
  synced : Bool
  /-- `wc.buf`, the space CAP; elements at `wc.len` and above hold no value (R31) -/
  buf : Memory
  /-- `wc.len`, 0..350 (R31) -/
  len : Nat
  /-- `wc.cnt` (R32) -/
  cnt : Nat
  /-- `wc.counting` (R32) -/
  counting : Bool
  /-- `wc.skipDone` (R32) -/
  skipDone : Bool
  /-- `wc.timer` (R33) -/
  timer : Bool
deriving DecidableEq, Repr

/-- The pins (R26, R34); `true` is the level 1. -/
structure Pins where
  /-- `pin.rd`, the read-data output (R26) -/
  rd : Bool
  /-- `pin.phase` (R34) -/
  phase : BitVec 4
  /-- `pin.sel_n`, active low (R34) -/
  selN : Bool
  /-- `pin.we_n`, active low (R34) -/
  weN : Bool
  /-- `pin.wd` (R34) -/
  wd : Bool
deriving DecidableEq, Repr

/-- One notification `saveTrack(name, t, b)` to the storage collaborator and its boolean answer (R147, R159). -/
structure SaveTrack where
  name : Nat
  track : Nat
  bytes : List Byte
  /-- the collaborator's answer; `false` is E_STORAGE -/
  answer : Bool
deriving DecidableEq, Repr

/-- The state of the block (R13), and the model's own fields after it. -/
structure State where
  /-- `img`, the space IMG (R14) -/
  img : Memory
  /-- `cache` (R15 to R17) -/
  cache : Cache
  /-- `head` (R19 to R22) -/
  head : Head
  /-- `rd` (R23 to R25) -/
  rd : Reader
  /-- `wc` (R27 to R33) -/
  wc : Capture
  /-- `pin` (R26, R34) -/
  pin : Pins
  /-- `rot` (R35) -/
  rot : Nat
  /-- `name`, what the host supplied with the last FAC.LOAD (R147) -/
  imageName : Nat
  /-- the `saveTrack` notifications emitted, oldest first (R147) -/
  saves : List SaveTrack
  /-- the model's mark that `img` holds a value: a FAC.LOAD has run (R14) -/
  imgLoaded : Bool
  /-- the model's copy of the instance's open parameters (R7); no operation writes it (R37) -/
  params : Params
  /-- the model's own: how the last operation ended and what it returned (R11); no operation reads it -/
  answer : Answer
  /-- the model's own: how many free values have been drawn -/
  draws : Nat
  /-- the model's own: the operations the agents of R5 present, encoded, in the order they take their steps -/
  pending : List Byte
deriving DecidableEq, Repr

/-- `line.mode` (R36). -/
inductive LineMode where
  | read
  | write
deriving DecidableEq, Repr

/-! ### Reset -/

/-- HeadState after reset (R39): the bring-up track, and a freely drawn `head.last`. -/
def Head.reset (bringup : Fin 35) (last : Fin 4) : Head :=
  { phys := 2 * bringup.val, log := bringup.val, phase := last, last := last }

/-- The EncodedTrack after reset (R39). -/
def Cache.reset : Cache := { data := [], track := none, dirty := false }

/-- The reader after reset (R39). -/
def Reader.reset : Reader := { run := false, buf := [], filled := false, byte := 0, bit := 0 }

/-- The capture engine after reset (R39). `wc.pos`, `wc.phys`, `wc.log` are given no value by the spec and are 0 here
(DESIGN CHOICE, log entry 3). -/
def Capture.reset : Capture :=
  { state := .idle, pos := 0, known := false, phys := 0, log := 0, shift := 0x00#8, nbits := 0, synced := false,
    buf := [], len := 0, cnt := 0, counting := false, skipDone := false, timer := false }

/-- The state after the reset event (R39, R176), for an instance with parameters `P`, the input levels `pin` the
environment drives, the free value number `draw`, the notifications already emitted and the operations still to come. -/
def State.afterReset (P : Params) (pin : Pins) (draw : Nat) (saves : List SaveTrack) (pending : List Byte) : State :=
  { img := []
    cache := Cache.reset
    head := Head.reset P.bringup (Config.resetLastPhase draw)
    rd := Reader.reset
    wc := Capture.reset
    pin := { pin with rd := false }
    rot := 0
    imageName := 0
    saves := saves
    imgLoaded := false
    params := P
    answer := .ok
    draws := draw + 1
    pending := pending }

/-- The input levels of `State.reset`: write-enable deasserted, as R39 requires; the others are the environment's and
are 0 here (DESIGN CHOICE, log entry 4): drive selected, no phase active, write-data low. -/
def Pins.reset : Pins := { rd := false, phase := 0#4, selN := false, weN := true, wd := false }

/-- The machine right after reset (R39, R176), with nothing presented to it yet. -/
def State.reset : State := State.afterReset Config.params Pins.reset 0 [] []

end Sys2Proof.Machine
end

