-- ==== Sys2Proof/Machine/Codec.lean ====
section
/-! DEFINITION. The codec functions of files 40 to 42 (R85 to R108): pure functions of their operands and of the open parameters. -/

namespace Sys2Proof.Machine

/-! ### The 6-bit code table -/

/-- NIB_TABLE at a code (R73). -/
def nibOf (P : Params) (c : Code) : Byte := P.nib[c.toNat]'c.isLt

/-- NIB.ENC: the lookup after the mask `& 0x3F` (R85). -/
def nibEnc (P : Params) (c : Byte) : Byte := nibOf P (c.setWidth 6)

/-- NIB.DEC, INV_TABLE at a byte: `none` is `invalid` (R74, R86). -/
def nibDec (P : Params) (b : Byte) : Option Code :=
  (P.nib.toList.findIdx? (· == b)).map (BitVec.ofNat 6)

/-! ### Nibblization -/

/-- N44.ENC, the document's `nibblize` (R88). -/
def n44Enc (v : Byte) : Byte × Byte := (0xAA#8 ||| (v >>> 1), 0xAA#8 ||| v)

/-- N44.DEC, the document's `unnibblize` (R89). -/
def n44Dec (b0 b1 : Byte) : Byte := ((b0 &&& 0x55#8) <<< 1) ||| (b1 &&& 0x55#8)

/-! ### The two-bit tables -/

/-- A two-bit table at a 2-bit value (R75). -/
def lutOf (lut : Vector Code 4) (a : Crumb) : Code := lut[a.toNat]'a.isLt

/-- The inverse of a two-bit table, applied to a masked code (R92). On an admissible table every masked code is an
entry, so the value 0 for a code that is none never arises. -/
def lutInv (lut : Vector Code 4) (x : Code) : Crumb :=
  BitVec.ofNat 2 ((lut.toList.findIdx? (· == x)).getD 0)

/-- PAIR.ENC (R91). -/
def pairEnc (P : Params) (a0 a1 a2 : Crumb) : Code := lutOf P.lut0 a0 ||| lutOf P.lut1 a1 ||| lutOf P.lut2 a2

/-- PAIR.DEC, first value (R92). -/
def pairDec0 (P : Params) (x : Code) : Crumb := lutInv P.lut0 (x &&& 0x03#6)
/-- PAIR.DEC, second value (R92). -/
def pairDec1 (P : Params) (x : Code) : Crumb := lutInv P.lut1 (x &&& 0x0C#6)
/-- PAIR.DEC, third value (R92). -/
def pairDec2 (P : Params) (x : Code) : Crumb := lutInv P.lut2 (x &&& 0x30#6)

/-! ### The interleave permutation -/

/-- ILV.P2L: physical slot to logical sector (R93). -/
def p2l (P : Params) (p : Fin 16) : Fin 16 := P.p2l[p.val]

/-- ILV.L2P: the physical slot whose logical sector is `l` (R94). On an admissible table there is exactly one. -/
def l2p (P : Params) (l : Fin 16) : Fin 16 :=
  Fin.ofNat 16 ((P.p2l.toList.findIdx? (· == l)).getD 0)

/-! ### The 6-and-2 payload -/

/-- The low two bits of `raw[k]`; `raw[256]` and `raw[257]` are 0 (R72, R97). -/
def lowBits (raw : List Byte) (k : Nat) : Crumb := (raw.getD k 0x00#8).setWidth 2

/-- The code of the top six bits of a raw byte, `raw[i] >> 2` (R97). -/
def topBits (b : Byte) : Code := (b >>> 2).setWidth 6

/-- The 342 codes `x[0..341]` of a sector (R72). -/
def sectorCodes (P : Params) (raw : List Byte) : List Code :=
  (List.range 86).map (fun i => pairEnc P (lowBits raw i) (lowBits raw (i + 86)) (lowBits raw (i + 172))) ++
  raw.map topBits

/-- The running XOR of NIC.ENC from the accumulator `ox`, closed by the table value of the last code (R97). -/
def xorChain (P : Params) : Code → List Code → List Byte
  | ox, [] => [nibOf P ox]
  | ox, x :: xs => nibOf P (x ^^^ ox) :: xorChain P x xs

/-- NIC.ENC (R97). -/
def nicEnc (P : Params) (raw : List Byte) : List Byte := xorChain P 0#6 (sectorCodes P raw)

/-- Undo the running XOR from the accumulator `ox`: the codes `v[k]`, or the index of the first invalid byte, counted
from `k` (R104). -/
def undoXor (P : Params) : Nat → Code → List Byte → Except Nat (List Code)
  | _, _, [] => .ok []
  | k, ox, b :: bs =>
    match nibDec P b with
    | none => .error k
    | some c =>
      match undoXor P (k + 1) (c ^^^ ox) bs with
      | .error e => .error e
      | .ok vs => .ok ((c ^^^ ox) :: vs)

/-- The two low bits of output byte `k`: from `v[k]`, `v[k - 86]` or `v[k - 172]` (R104). -/
def lowOf (P : Params) (v : List Code) (k : Nat) : Crumb :=
  if k < 86 then pairDec0 P (v.getD k 0#6)
  else if k < 172 then pairDec1 P (v.getD (k - 86) 0#6)
  else pairDec2 P (v.getD (k - 172) 0#6)

/-- The 256 output bytes of NIC.DEC from the codes: `(v[86+k] << 2) & 0xFC` and the two low bits (R104). -/
def sectorOf (P : Params) (v : List Code) : List Byte :=
  (List.range 256).map fun k => (v.getD (86 + k) 0#6 ++ lowOf P v k : BitVec 8)

/-- NIC.DEC: the sector, or the index of the first invalid byte among the first 343 (R104). Nothing else is checked
(R105). -/
def nicDec (P : Params) (enc : List Byte) : Except Nat (List Byte) :=
  match undoXor P 0 0#6 (enc.take 343) with
  | .error k => .error k
  | .ok v => .ok (sectorOf P v)

/-! ### Address field, sector record, track -/

/-- The address prologue D5 AA 96 (R68). -/
def addressPrologue : List Byte := [0xD5#8, 0xAA#8, 0x96#8]
/-- The address epilogue DE AA EB (R68). -/
def addressEpilogue : List Byte := [0xDE#8, 0xAA#8, 0xEB#8]
/-- The data prologue D5 AA AD (R70). -/
def dataPrologue : List Byte := [0xD5#8, 0xAA#8, 0xAD#8]

/-- A nibblized pair, the byte with the odd bits first (R47). -/
def n44Bytes (v : Byte) : List Byte := [(n44Enc v).1, (n44Enc v).2]

/-- ADDR.ENC (R99). -/
def addrEnc (vol trk sec : Byte) : List Byte :=
  addressPrologue ++ n44Bytes vol ++ n44Bytes trk ++ n44Bytes sec ++ n44Bytes (vol ^^^ trk ^^^ sec) ++ addressEpilogue

/-- ADDR.DEC (R107): the checksum is returned, not verified, and the epilogue is not read. -/
def addrDec (f : List Byte) : AddressField :=
  { ok := f.take 3 == addressPrologue
    vol := n44Dec (f.getD 3 0x00#8) (f.getD 4 0x00#8)
    trk := n44Dec (f.getD 5 0x00#8) (f.getD 6 0x00#8)
    sec := n44Dec (f.getD 7 0x00#8) (f.getD 8 0x00#8)
    chk := n44Dec (f.getD 9 0x00#8) (f.getD 10 0x00#8) }

/-- `n` sync bytes (R66). -/
def syncBytes (n : Nat) : List Byte := List.replicate n 0xFF#8

/-- SEC.ENC: one record of the EncodedTrack (R65, R100). -/
def secEnc (P : Params) (T : Nat) (p : Fin 16) (raw : List Byte) : List Byte :=
  syncBytes 22 ++ P.selfSync.toList ++ addrEnc Config.volume (BitVec.ofNat 8 T) (BitVec.ofNat 8 p.val) ++
  syncBytes 5 ++ dataPrologue ++ nicEnc P raw ++ P.dataEpilogue.toList ++ syncBytes 14

/-- FIELD.DEC: the sector of one slot's data field, or the skip outcome (R108). -/
def fieldDec (P : Params) (d : List Byte) : Except ErrorOutcome (List Byte) :=
  if d.take 3 = dataPrologue then
    match nicDec P (d.drop 3) with
    | .error k => .error (.decode k)
    | .ok raw => .ok raw
  else .error .prologue

end Sys2Proof.Machine
end

