-- ==== Sys2Proof/Machine/Operands.lean ====
section
/-! DEFINITION. The operand forms: the phase sample (R77), bits of a byte on the lines (R46), slot and sector numbers, the addresses of R41 and R42. -/

namespace Sys2Proof.Machine

/-- The index of the set bit of a one-hot phase sample; none for any other sample (R77, R109). -/
def oneHot (sample : BitVec 4) : Option (Fin 4) :=
  if sample = 0x1#4 then some 0
  else if sample = 0x2#4 then some 1
  else if sample = 0x4#4 then some 2
  else if sample = 0x8#4 then some 3
  else none

/-- The one-hot sample of a phase index (R77). -/
def sampleOf (k : Fin 4) : BitVec 4 := 1#4 <<< k.val

/-- A 4-bit slot or sector operand as a number 0..15 (R93, R94). -/
def slotOf (p : BitVec 4) : Fin 16 := ⟨p.toNat, p.isLt⟩

/-- Bit `k` of a byte in the order of the lines, bit 7 first (R46): bit 7 - `k`. -/
def lineBit (b : Byte) (k : Nat) : Bool := b.getLsbD (7 - k)

/-- The shift register with one more bit: `((shift << 1) | b) & 0xFF` (R134). -/
def shiftIn (shift : Byte) (b : Bool) : Byte := (shift <<< 1) ||| (if b then 0x01#8 else 0x00#8)

/-- `clamp(x, lo, hi)` of R9. -/
def clamp (x lo hi : Int) : Int := if x < lo then lo else if hi < x then hi else x

/-- Where sector `sec` of track `t` starts in IMG (R41). -/
def sectorAddr (t sec : Nat) : Nat := (t * 16 + sec) * 256

/-- Where the data field of slot `p` starts in ENC (R42). -/
def fieldAddr (p : Nat) : Nat := p * 416 + 53

end Sys2Proof.Machine
end

