-- ==== Sys2Proof/Machine/Flags.lean ====
section
/-! DEFINITION. The conditions operations compute from the state: drive-select, line mode, the tests of field completion, the range test of the commands. -/

namespace Sys2Proof.Machine

/-- The drive is *selected* exactly when `pin.sel_n = 0` (R34). -/
def Pins.selected (pin : Pins) : Bool := !pin.selN

/-- "A capture is in progress", "armed": `wc.state ≠ Idle` (R27). -/
def Capture.armed (wc : Capture) : Bool := wc.state != .idle

/-- `line.mode` (R36). -/
def State.lineMode (s : State) : LineMode := if s.wc.armed then .write else .read

/-- E_RANGE's test for a track and a sector (R160). -/
def inRange (t sec : Nat) : Bool := decide (t ≤ 34) && decide (sec ≤ 15)

/-- The tests of WC.COMPLETE in the order of R165: length, prefix, `wc.known`, `cache.track`. The first that fails
names the outcome; none when the field is installed (R139, R140). -/
def completionOutcome (len : Nat) (captured : List Byte) (known : Bool) (track : Option Nat) : Option ErrorOutcome :=
  if len = 0 then some .noSync
  else if len < 3 then some .notData
  else if captured.take 3 ≠ dataPrologue then some .notData
  else if known = false then some .noSector
  else if track = none then some .noSector
  else none

/-- The code column of R155: the spec's label of an outcome. It is latched nowhere. -/
def errorCode : ErrorOutcome → Nat
  | .decode _ => 1
  | .prologue => 2
  | .noSync => 3
  | .noSector => 4
  | .notData => 5
  | .storage => 6
  | .range => 7

/-- `wc.counting` at WC.ENTER (R129, R135). -/
def countsFromEnter (origin : SkipOrigin) : Bool :=
  match origin with
  | .we => true
  | .sync => false

end Sys2Proof.Machine
end

