-- ==== Sys2Proof/Machine/Ops.lean ====
section
/-! DEFINITION. The named operations over memories and state that the meanings share: reading and writing an address space, how an operation ends, and the parts of the tracker, the reader, the capture engine and the cache. -/

namespace Sys2Proof.Machine

/-- What an operation makes of a state. -/
abbrev Out := Host.Outcome State Fault Refusal

/-! ### Memories -/

/-- What an unlisted address reads as. Every space is read only while it holds a value (R39), and FAC.LOAD pads an
image with this byte (R149). -/
def Memory.blank : Byte := 0x00#8

/-- The byte at an address. -/
def Memory.read : Memory → Nat → Byte
  | [], _ => Memory.blank
  | (a, b) :: m, x => if a = x then b else Memory.read m x

/-- Put a byte at an address, keeping the addresses rising and no blank byte listed. -/
def Memory.write : Memory → Nat → Byte → Memory
  | [], x, b => if b = Memory.blank then [] else [(x, b)]
  | (a, c) :: m, x, b =>
    if a < x then (a, c) :: Memory.write m x b
    else if a = x then (if b = Memory.blank then m else (x, b) :: m)
    else (if b = Memory.blank then (a, c) :: m else (x, b) :: (a, c) :: m)

/-- The `n` bytes from address `a` on. -/
def Memory.block (m : Memory) (a n : Nat) : List Byte := (List.range n).map fun k => m.read (a + k)

/-- Put bytes at consecutive addresses from `a` on. -/
def Memory.writeList : Memory → Nat → List Byte → Memory
  | m, _, [] => m
  | m, a, b :: bs => Memory.writeList (m.write a b) (a + 1) bs

/-- The memory that holds `bytes` from address `a` on and nothing else. -/
def Memory.ofBytes : Nat → List Byte → Memory
  | _, [] => []
  | a, b :: bs => if b = Memory.blank then Memory.ofBytes (a + 1) bs else (a, b) :: Memory.ofBytes (a + 1) bs

/-- The canonical form, for cells at `lo` and above: addresses strictly rising, below `size`, no blank byte listed. -/
def Memory.wfFrom (size : Nat) : Nat → Memory → Bool
  | _, [] => true
  | lo, (a, b) :: m => decide (lo ≤ a) && decide (a < size) && decide (b ≠ Memory.blank) && Memory.wfFrom size (a + 1) m

/-- The canonical form of a memory of an address space of `size` bytes. -/
def Memory.wf (size : Nat) (m : Memory) : Bool := Memory.wfFrom size 0 m

/-! ### How an operation ends (R11) -/

/-- End the operation ok, with the answer `a`. -/
def answer (a : Answer) (s : State) : Out := .next { s with answer := a }

/-- `ignore`: no state change (R10). -/
def ignore (s : State) : Out := answer .ignored s

/-- `raise E`: the operation ends with the named error outcome; nothing is saved and control goes nowhere (R10, R155). -/
def raise (e : ErrorOutcome) (s : State) : Out := answer (.error e) s

/-- Go on from the state a first part left, if there is one. -/
def andThen (o : Out) (f : State → Out) : Out :=
  match o with
  | .next s => f s
  | .fault r => .fault r
  | .refused r => .refused r

/-! ### Access to the address spaces (R40, R49, R50) -/

/-- The memory of an address space. -/
def State.memory (s : State) : Space → Memory
  | .img => s.img
  | .enc => s.cache.data
  | .rdbuf => s.rd.buf
  | .cap => s.wc.buf

/-- The state with another memory in an address space. -/
def State.setMemory (s : State) (m : Memory) : Space → State
  | .img => { s with img := m }
  | .enc => { s with cache := { s.cache with data := m } }
  | .rdbuf => { s with rd := { s.rd with buf := m } }
  | .cap => { s with wc := { s.wc with buf := m } }

/-- The space holds a value: IMG after a FAC.LOAD (R14), ENC while `cache.track` is valid (R15), RDBUF after a
snapshot (R24), CAP always below `wc.len` (R31). -/
def State.holdsValue (s : State) : Space → Bool
  | .img => s.imgLoaded
  | .enc => s.cache.track.isSome
  | .rdbuf => s.rd.filled
  | .cap => true

/-- MemRead(space, a, n) (R10), handed to `k`: refused while the space holds no value, a fault beyond its end. -/
def readBlock (s : State) (sp : Space) (a n : Nat) (k : List Byte → Out) : Out :=
  if s.holdsValue sp = false then .refused (.noValue sp)
  else if a + n ≤ sp.size then k ((s.memory sp).block a n)
  else .fault (.outOfSpace sp (a + n))

/-- MemWrite(space, a, n, bytes) (R10): a fault beyond the end of the space. -/
def writeBlock (s : State) (sp : Space) (a : Nat) (bytes : List Byte) : Out :=
  if a + bytes.length ≤ sp.size then .next (s.setMemory ((s.memory sp).writeList a bytes) sp)
  else .fault (.outOfSpace sp (a + bytes.length))

/-! ### StepperPositionTracker -/

/-- The transition of a one-hot sample with index `ofs` (R110, R111, R113). -/
def Head.move (h : Head) (ofs : Fin 4) : Head :=
  let phys : Nat :=
    if ofs = h.last then h.phys
    else if ofs = h.last + 1 then (clamp ((h.phys : Int) + 1) 0 69).toNat
    else if ofs = h.last - 1 then (clamp ((h.phys : Int) - 1) 0 69).toNat
    else h.phys
  { phys := phys, log := phys >>> 1, phase := ofs, last := ofs }

/-- STP.FORCE on the head (R114). -/
def Head.force (h : Head) (T : Nat) (sample : BitVec 4) : Head :=
  match oneHot sample with
  | some ofs => { phys := T * 2, log := T, phase := ofs, last := ofs }
  | none => { h with phys := T * 2, log := T }

/-- STP.SAMPLE: record the reading, then the transition if the sample is one-hot (R109, R110). -/
def sampleHead (sample : BitVec 4) (s : State) : State :=
  let s := { s with pin := { s.pin with phase := sample } }
  match oneHot sample with
  | some ofs => { s with head := s.head.move ofs }
  | none => s

/-! ### BitstreamReader -/

/-- `rd.buf <- cache.data`, when `cache.track` is valid; with an INVALID track the copy is not performed (R119, R122). -/
def refresh (c : Cache) (r : Reader) : Reader :=
  if c.track.isSome then { r with buf := c.data, filled := true } else r

/-- Advance the stream position by one bit, with the wrap (R118, R119). -/
def Reader.advance (r : Reader) (c : Cache) : Reader :=
  if r.bit + 1 = 8 then
    if r.byte + 1 = 6656 then refresh c { r with byte := 0, bit := 0 }
    else { r with byte := r.byte + 1, bit := 0 }
  else { r with bit := r.bit + 1 }

/-- RD.STOP (R121). -/
def stopReader (s : State) : State :=
  { s with rd := { s.rd with run := false }, pin := { s.pin with rd := false } }

/-- RD.RESTORE (R122). -/
def restoreReader (s : State) : State :=
  let r := refresh s.cache { s.rd with byte := 0, bit := 0 }
  { s with rd := if s.cache.track.isSome then { r with run := true } else r }

/-- RD.START (R123): refused where it would copy a cache that holds no value (R15, R39). -/
def startReader (s : State) : Out :=
  if s.rd.run = false ∧ s.wc.state = .idle then
    if s.cache.track.isSome then
      answer .ok { s with rd := { run := true, buf := s.cache.data, filled := true, byte := 0, bit := 0 } }
    else .refused (.noValue .enc)
  else answer .ok s

/-! ### WriteCaptureEngine -/

/-- The address prologue stands at byte `q` of the snapshot, modulo 6656 (R130). -/
def prologueAt (buf : Memory) (q : Nat) : Bool :=
  buf.read q == 0xD5#8 && buf.read ((q + 1) % 6656) == 0xAA#8 && buf.read ((q + 2) % 6656) == 0x96#8

/-- `(pos - k) mod 6656` for `k ≤ 6656` (R130, R9). -/
def backward (pos k : Nat) : Nat := (pos + 6656 - k) % 6656

/-- The sector-locate scan: the first prologue going backward among the 450 candidates (R130). -/
def locate (buf : Memory) (pos : Nat) : Option Nat :=
  ((List.range 450).map (backward pos)).find? (prologueAt buf)

/-- The sector number decoded from the address field whose prologue stands at `q` (R131). -/
def locatedSector (buf : Memory) (q : Nat) : Byte :=
  n44Dec (buf.read ((q + 7) % 6656)) (buf.read ((q + 8) % 6656))

/-- The physical slot the scan identifies, if any: none without a snapshot, without a prologue in the window, or with a
sector value of 16 or more (R130, R131). -/
def scanSector (r : Reader) (pos : Nat) : Option (Fin 16) :=
  if r.filled then
    match locate r.buf pos with
    | none => none
    | some q =>
      let v := (locatedSector r.buf q).toNat
      if h : v ≤ 15 then some ⟨v, by omega⟩ else none
  else none

/-- The scan's result in `wc.known`, `wc.phys`, `wc.log` (R131). -/
def Capture.located (wc : Capture) (P : Params) (found : Option (Fin 16)) : Capture :=
  match found with
  | some p => { wc with known := true, phys := p.val, log := (p2l P p).val }
  | none => { wc with known := false }

/-- The registers WC.ENTER clears: byte assembler, synchronization, buffer length, skip counter (R129). -/
def Capture.cleared (wc : Capture) (origin : SkipOrigin) : Capture :=
  { wc with shift := 0x00#8, nbits := 0, len := 0, synced := false, cnt := 0, skipDone := false,
            counting := countsFromEnter origin }

/-- Byte completion with value `b` (R136, R137). -/
def Capture.completeByte (wc : Capture) (P : Params) (b : Byte) : Capture :=
  if wc.synced then
    if wc.len < 350 then { wc with buf := wc.buf.write wc.len b, len := wc.len + 1 } else wc
  else if b = 0xD5#8 then
    let wc := { wc with synced := true, buf := wc.buf.write 0 0xD5#8, len := 1 }
    match P.skipOrigin with
    | .we => wc
    | .sync => { wc with counting := true, cnt := P.skipPreload.count }
  else wc

/-- The bit enters the byte in progress (R134, second part). -/
def Capture.shiftBit (wc : Capture) (P : Params) (b : Bool) : Capture :=
  let shift := shiftIn wc.shift b
  if wc.nbits + 1 = 8 then { wc with shift := shift, nbits := 0 }.completeByte P shift
  else { wc with shift := shift, nbits := wc.nbits + 1 }

/-- WC.APPEND: count the bit, discard the 25th counted one, else let it enter the byte in progress (R134, R135). -/
def Capture.append (wc : Capture) (P : Params) (b : Bool) : Capture :=
  if wc.counting ∧ wc.skipDone = false then
    let wc := { wc with cnt := wc.cnt + 1 }
    if wc.cnt = 25 then { wc with skipDone := true } else wc.shiftBit P b
  else wc.shiftBit P b

/-- WC.APPEND on the state. -/
def appendBit (b : Bool) (s : State) : State := { s with wc := s.wc.append s.params b }

/-- WC.COMPLETE: install the captured field into the cached track, or discard it (R139, R140). -/
def completeField (s : State) : Out :=
  match completionOutcome s.wc.len (s.wc.buf.block 0 s.wc.len) s.wc.known s.cache.track with
  | some e => raise e s
  | none =>
    andThen (writeBlock s .enc (fieldAddr s.wc.phys) (s.wc.buf.block 0 (min s.wc.len 349))) fun s =>
      answer .ok { s with cache := { s.cache with dirty := true } }

/-! ### TrackCache -/

/-- TRK.ENC over an image held in a memory (R101). -/
def trkEnc (P : Params) (img : Memory) (T : Nat) : List Byte :=
  (List.finRange 16).flatMap fun p => secEnc P T p (img.block (sectorAddr T (p2l P p).val) 256)

/-- One slot of TC.RECONCILE: write the decoded sector back, or leave the image alone (R145). -/
def reconcileSlot (P : Params) (data : Memory) (t : Nat) (img : Memory) (p : Fin 16) : Memory :=
  match fieldDec P (data.block (fieldAddr p.val) 346) with
  | .ok raw => img.writeList (sectorAddr t (p2l P p).val) raw
  | .error _ => img

/-- All 16 slots of TC.RECONCILE (R145). -/
def reconcileImage (P : Params) (data : Memory) (t : Nat) (img : Memory) : Memory :=
  (List.finRange 16).foldl (reconcileSlot P data t) img

/-- The storage notification of TC.RECONCILE: the 4096 bytes of track `t` after the write-back. The answer is a free
value and is discarded (R147, R159). -/
def notifySave (t : Nat) (s : State) : State :=
  { s with
    saves := s.saves ++ [{ name := s.imageName, track := t, bytes := s.img.block (t * 4096) 4096,
                           answer := Config.storageAnswer s.draws }]
    draws := s.draws + 1 }

/-- TC.RECONCILE without its guard (R145). -/
def reconcile (s : State) : Out :=
  match s.cache.track with
  | none => .refused .noCachedTrack
  | some t =>
    if s.imgLoaded = false then .refused (.noValue .img)
    else if sectorAddr t 16 ≤ Space.img.size then
      answer .ok (notifySave t { s with img := reconcileImage s.params s.cache.data t s.img })
    else .fault (.outOfSpace .img (sectorAddr t 16))

/-- TC.REBUILD without its guard (R146). -/
def rebuild (T : Nat) (s : State) : Out :=
  if s.imgLoaded = false then .refused (.noValue .img)
  else if sectorAddr T 16 ≤ Space.img.size then
    answer .ok { s with cache := { s.cache with data := Memory.ofBytes 0 (trkEnc s.params s.img T), track := some T } }
  else .fault (.outOfSpace .img (sectorAddr T 16))

/-- TC.SELECT of a track that is not the cached one (R144): reconcile a dirty cache, rebuild, clear dirty, start the
reader. -/
def changeTrack (T : Nat) (s : State) : Out :=
  andThen (if s.cache.dirty then reconcile s else .next s) fun s =>
    andThen (rebuild T s) fun s =>
      startReader { s with cache := { s.cache with dirty := false } }

/-- TC.SELECT (R144). -/
def select (T : Nat) (s : State) : Out :=
  if s.wc.armed then .refused .duringCapture
  else if 34 < T then raise .range s
  else if s.cache.track = some T then answer .ok s
  else changeTrack T s

/-! ### EmulatorFacade -/

/-- The image of FAC.LOAD: the first IMG_BYTES bytes of the operand, 0x00 after it (R149). -/
def imageOf (bytes : List Byte) : Memory := Memory.ofBytes 0 (bytes.take 143360)

/-- Step 4 of FAC.TICK: `rot <- advance(rot)`, by an unspecified amount (R35, R148). -/
def advanceRot (s : State) : State :=
  { s with rot := Config.rotAdvance s.draws s.rot, draws := s.draws + 1 }

end Sys2Proof.Machine
end

