-- ==== Sys2Proof/Machine/CodecTables.lean ====
section
/-! DEFINITION. The meanings of group 0x0, the codec tables (40_codec_tables.md): NIB, N44, PAIR and ILV operations. -/

namespace Sys2Proof.Machine

/-- NIB.ENC (R85). -/
def execNibEnc (c : Byte) (s : State) : Out := answer (.byte (nibEnc s.params c)) s

/-- NIB.DEC (R86). -/
def execNibDec (b : Byte) (s : State) : Out := answer (.codeOrInvalid (nibDec s.params b)) s

/-- N44.ENC (R88). -/
def execN44Enc (v : Byte) (s : State) : Out := answer (.pair (n44Enc v).1 (n44Enc v).2) s

/-- N44.DEC (R89). -/
def execN44Dec (b0 b1 : Byte) (s : State) : Out := answer (.byte (n44Dec b0 b1)) s

/-- PAIR.ENC (R91). -/
def execPairEnc (a0 a1 a2 : Crumb) (s : State) : Out := answer (.code (pairEnc s.params a0 a1 a2)) s

/-- PAIR.DEC (R92). -/
def execPairDec (x : Code) (s : State) : Out :=
  answer (.crumbs (pairDec0 s.params x) (pairDec1 s.params x) (pairDec2 s.params x)) s

/-- ILV.P2L (R93). -/
def execIlvP2l (p : BitVec 4) (s : State) : Out := answer (.sector (p2l s.params (slotOf p))) s

/-- ILV.L2P (R94). -/
def execIlvL2p (l : BitVec 4) (s : State) : Out := answer (.sector (l2p s.params (slotOf l))) s

end Sys2Proof.Machine
end

