-- ==== Sys2Proof/Machine/Facade.lean ====
section
/-! DEFINITION. The meanings of group 0x6, the EmulatorFacade and the debug commands (46_cache_and_facade.md, parts 2 and 3). -/

namespace Sys2Proof.Machine

/-- FAC.TICK (R148): run the tracker; return if a capture is in progress; select the head's track if it is not the
cached one; advance the rotation clock. -/
def execFacTick (sample : BitVec 4) (s : State) : Out :=
  let s := sampleHead sample s
  if s.wc.armed then answer .ok s
  else
    andThen (if s.cache.track = some s.head.log then .next s else select s.head.log s) fun s =>
      answer .ok (advanceRot s)

/-- FAC.LOAD (R149): replace the image, force the head to the bring-up track, invalidate the cache. -/
def execFacLoad (bytes : List Byte) (s : State) : Out :=
  if s.wc.armed then .refused .duringCapture
  else
    answer .ok
      { s with
        img := imageOf bytes
        imgLoaded := true
        imageName := Config.imageName s.draws
        draws := s.draws + 1
        head := s.head.force s.params.bringup.val s.pin.phase
        cache := { s.cache with track := none, dirty := false } }

/-- DBG.RDSEC (R150): E_RANGE before any access; it reads `img` only. -/
def execDbgRdsec (t sec : Nat) (s : State) : Out :=
  if inRange t sec = false then raise .range s
  else readBlock s .img (sectorAddr t sec) 256 fun bytes => answer (.bytes bytes) s

/-- DBG.WRSEC (R151): it writes `img` only. -/
def execDbgWrsec (t sec : Nat) (data : List Byte) (s : State) : Out :=
  if s.wc.armed then .refused .duringCapture
  else if inRange t sec = false then raise .range s
  else andThen (writeBlock s .img (sectorAddr t sec) data) (answer .ok)

/-- DBG.SETTRK (R152). -/
def execDbgSettrk (T : Nat) (sample : BitVec 4) (s : State) : Out :=
  if s.wc.armed then .refused .duringCapture
  else if 34 < T then raise .range s
  else answer .ok { s with pin := { s.pin with phase := sample }, head := s.head.force T sample }

/-- DBG.DUMP (R153): the data part holds no value while `cache.track = INVALID` (U28). -/
def execDbgDump (s : State) : Out :=
  answer (.dump s.cache.track s.cache.dirty
    (if s.cache.track.isSome then some (s.cache.data.block 0 6656) else none)) s

end Sys2Proof.Machine
end

