-- ==== Sys2Proof/Machine/Reader.lean ====
section
/-! DEFINITION. The meanings of group 0x3, the BitstreamReader (44_bitstream_reader.md). -/

namespace Sys2Proof.Machine

/-- RD.CLK (R118 to R120): one bit cell; ignored while `rd.run = 0`. -/
def execRdClk (s : State) : Out :=
  if s.rd.run = false then ignore s
  else
    readBlock s .rdbuf s.rd.byte 1 fun bytes =>
      answer .ok
        { s with
          pin := { s.pin with rd := s.pin.selected && lineBit (bytes.headD 0x00#8) s.rd.bit }
          rd := s.rd.advance s.cache }

/-- RD.STOP (R121). -/
def execRdStop (s : State) : Out := answer .ok (stopReader s)

/-- RD.RESTORE (R122). -/
def execRdRestore (s : State) : Out := answer .ok (restoreReader s)

/-- RD.START (R123). -/
def execRdStart (s : State) : Out := startReader s

/-- EV.SEL (R127): the new level of `pin.sel_n`; a deselected drive holds `pin.rd` low. -/
def execEvSel (level : Bool) (s : State) : Out :=
  answer .ok { s with pin := { s.pin with selN := level, rd := if level then false else s.pin.rd } }

end Sys2Proof.Machine
end

