-- ==== Sys2Proof/Machine/Reset.lean ====
section
/-! DEFINITION. The meaning of group 0x7, RESET (70_reset_and_hazards.md). -/

namespace Sys2Proof.Machine

/-- RESET (R176), refused in no state: the table of R39. The instance's parameters (R37), the input levels the
environment drives (R34), the notifications already emitted and the operations still to come stay. -/
def execReset (s : State) : Out := .next (State.afterReset s.params s.pin s.draws s.saves s.pending)

end Sys2Proof.Machine
end

