-- ==== Sys2Proof/Machine/Stepper.lean ====
section
/-! DEFINITION. The meanings of group 0x2, the StepperPositionTracker (43_stepper_tracker.md). -/

namespace Sys2Proof.Machine

/-- STP.SAMPLE (R109 to R113): a sample that is not one-hot is recorded in `pin.phase` and otherwise ignored. -/
def execStpSample (sample : BitVec 4) (s : State) : Out :=
  if (oneHot sample).isSome then answer .ok (sampleHead sample s) else ignore (sampleHead sample s)

/-- STP.FORCE (R114). -/
def execStpForce (T : Nat) (sample : BitVec 4) (s : State) : Out :=
  answer .ok { s with head := s.head.force T sample }

end Sys2Proof.Machine
end

