-- ==== Sys2Proof/Machine/TrackCache.lean ====
section
/-! DEFINITION. The meanings of group 0x5, the TrackCache (46_cache_and_facade.md, part 1). -/

namespace Sys2Proof.Machine

/-- TC.SELECT (R144). -/
def execTcSelect (T : Nat) (s : State) : Out := select T s

/-- TC.RECONCILE (R145); refused during a capture (R55). -/
def execTcReconcile (s : State) : Out :=
  if s.wc.armed then .refused .duringCapture else reconcile s

/-- TC.REBUILD (R146); refused during a capture (R55). -/
def execTcRebuild (T : Nat) (s : State) : Out :=
  if s.wc.armed then .refused .duringCapture else rebuild T s

end Sys2Proof.Machine
end

