-- ==== Sys2Proof/Machine/TrackCodec.lean ====
section
/-! DEFINITION. The meanings of group 0x1, track encoder and decoder (41_track_encoder.md, 42_track_decoder.md). -/

namespace Sys2Proof.Machine

/-- NIC.ENC (R97). -/
def execNicEnc (raw : List Byte) (s : State) : Out := answer (.bytes (nicEnc s.params raw)) s

/-- ADDR.ENC (R99). -/
def execAddrEnc (vol trk sec : Byte) (s : State) : Out := answer (.bytes (addrEnc vol trk sec)) s

/-- SEC.ENC (R100). -/
def execSecEnc (T : Nat) (p : BitVec 4) (raw : List Byte) (s : State) : Out :=
  answer (.bytes (secEnc s.params T (slotOf p) raw)) s

/-- TRK.ENC (R101), over the image operand. -/
def execTrkEnc (img : List Byte) (T : Nat) (s : State) : Out :=
  if sectorAddr T 16 ≤ Space.img.size then answer (.bytes (trkEnc s.params (imageOf img) T)) s
  else .fault (.outOfSpace .img (sectorAddr T 16))

/-- NIC.DEC (R104, R105): the sector, or E_DECODE with the index of the first invalid byte. -/
def execNicDec (enc : List Byte) (s : State) : Out :=
  match nicDec s.params enc with
  | .ok raw => answer (.bytes raw) s
  | .error k => raise (.decode k) s

/-- ADDR.DEC (R107). -/
def execAddrDec (f : List Byte) (s : State) : Out := answer (.address (addrDec f)) s

/-- FIELD.DEC (R108): the sector, or the skip outcome, which is returned and not raised. -/
def execFieldDec (d : List Byte) (s : State) : Out :=
  match fieldDec s.params d with
  | .ok raw => answer (.bytes raw) s
  | .error e => answer (.skip e) s

end Sys2Proof.Machine
end

