-- ==== Sys2Proof/Machine/WriteCapture.lean ====
section
/-! DEFINITION. The meanings of group 0x4, the WriteCaptureEngine (45_write_capture.md). -/

namespace Sys2Proof.Machine

/-- WC.ENTER (R129 to R131): stop the reader, locate the sector, clear the assembler, arm the timer; ignored while a
capture is armed (R141). -/
def execWcEnter (s : State) : Out :=
  if s.wc.armed then ignore s
  else
    let s := { s with pin := { s.pin with weN := false }, wc := { s.wc with state := .locatingSector } }
    let s := stopReader s
    let wc := { s.wc with pos := s.rd.byte }.located s.params (scanSector s.rd s.rd.byte)
    answer .ok { s with wc := { wc.cleared s.params.skipOrigin with timer := true, state := .sampling } }

/-- WC.EDGE (R132): a transition appends a 1; ignored outside a capture (R141) or while the drive is not selected. -/
def execWcEdge (s : State) : Out :=
  if s.wc.state ≠ .sampling then ignore s
  else if s.pin.selected = false then ignore s
  else answer .ok (appendBit true { s with pin := { s.pin with wd := !s.pin.wd } })

/-- WC.TICK (R133): an expiry with no transition appends a 0; ignored outside a capture (R141). -/
def execWcTick (s : State) : Out :=
  if s.wc.state = .sampling ∧ s.wc.timer = true then answer .ok (appendBit false s) else ignore s

/-- WC.EXIT (R138): stop the timer, restore the reader, complete the field, return to Idle; ignored outside a capture
(R141). A discard outcome of R140 does not abort it (R168). -/
def execWcExit (s : State) : Out :=
  if s.wc.state ≠ .sampling then ignore s
  else
    let s := { s with pin := { s.pin with weN := true }, wc := { s.wc with state := .flushing, timer := false } }
    andThen (completeField (restoreReader s)) fun s => .next { s with wc := { s.wc with state := .idle } }

/-- WC.APPEND (R134 to R137). -/
def execWcAppend (b : Bool) (s : State) : Out := answer .ok (appendBit b s)

/-- WC.COMPLETE (R139, R140). -/
def execWcComplete (s : State) : Out := completeField s

end Sys2Proof.Machine
end

