-- ==== Sys2Proof/Machine/Dispatch.lean ====
section
/-! DEFINITION. One arm per operation of R81. -/

namespace Sys2Proof.Machine

def exec (i : Instr) (s : State) : Host.Outcome State Fault Refusal :=
  match i with
  | .nibEnc c => Sys2Proof.Machine.execNibEnc c s
  | .nibDec b => Sys2Proof.Machine.execNibDec b s
  | .n44Enc v => Sys2Proof.Machine.execN44Enc v s
  | .n44Dec b0 b1 => Sys2Proof.Machine.execN44Dec b0 b1 s
  | .pairEnc a0 a1 a2 => Sys2Proof.Machine.execPairEnc a0 a1 a2 s
  | .pairDec x => Sys2Proof.Machine.execPairDec x s
  | .ilvP2l p => Sys2Proof.Machine.execIlvP2l p s
  | .ilvL2p l => Sys2Proof.Machine.execIlvL2p l s
  | .nicEnc raw => Sys2Proof.Machine.execNicEnc raw s
  | .addrEnc vol trk sec => Sys2Proof.Machine.execAddrEnc vol trk sec s
  | .secEnc T p raw => Sys2Proof.Machine.execSecEnc T p raw s
  | .trkEnc img T => Sys2Proof.Machine.execTrkEnc img T s
  | .nicDec enc => Sys2Proof.Machine.execNicDec enc s
  | .addrDec f => Sys2Proof.Machine.execAddrDec f s
  | .fieldDec d => Sys2Proof.Machine.execFieldDec d s
  | .stpSample sample => Sys2Proof.Machine.execStpSample sample s
  | .stpForce T sample => Sys2Proof.Machine.execStpForce T sample s
  | .rdClk => Sys2Proof.Machine.execRdClk s
  | .rdStop => Sys2Proof.Machine.execRdStop s
  | .rdRestore => Sys2Proof.Machine.execRdRestore s
  | .rdStart => Sys2Proof.Machine.execRdStart s
  | .evSel level => Sys2Proof.Machine.execEvSel level s
  | .wcEnter => Sys2Proof.Machine.execWcEnter s
  | .wcEdge => Sys2Proof.Machine.execWcEdge s
  | .wcTick => Sys2Proof.Machine.execWcTick s
  | .wcExit => Sys2Proof.Machine.execWcExit s
  | .wcAppend b => Sys2Proof.Machine.execWcAppend b s
  | .wcComplete => Sys2Proof.Machine.execWcComplete s
  | .tcSelect T => Sys2Proof.Machine.execTcSelect T s
  | .tcReconcile => Sys2Proof.Machine.execTcReconcile s
  | .tcRebuild T => Sys2Proof.Machine.execTcRebuild T s
  | .facTick sample => Sys2Proof.Machine.execFacTick sample s
  | .facLoad bytes => Sys2Proof.Machine.execFacLoad bytes s
  | .dbgRdsec t sec => Sys2Proof.Machine.execDbgRdsec t sec s
  | .dbgWrsec t sec data => Sys2Proof.Machine.execDbgWrsec t sec data s
  | .dbgSettrk T sample => Sys2Proof.Machine.execDbgSettrk T sample s
  | .dbgDump => Sys2Proof.Machine.execDbgDump s
  | .reset => Sys2Proof.Machine.execReset s

end Sys2Proof.Machine
end

