-- ==== Sys2Proof/Machine/Fetch.lean ====
section
/-! DEFINITION. How the operations the agents present reach the machine: the next one is decoded from the head of `pending`. -/

namespace Sys2Proof.Machine

/-- The refusal for bytes that are no operation (U22). -/
def refusalOf : DecodeError → Refusal
  | .empty => .truncated
  | .unassigned id => .unassigned id
  | .truncated => .truncated
  | .operand _ => .badOperand
  | .tooLong => .badOperand

/-- The next operation of `pending`, and the bytes after it. -/
def fetch (s : State) : Decoded Instr := decode s.pending

/-- One step of the agent whose turn it is (R5): its operation is taken off `pending` and runs to its end (R4). -/
def stepNext (s : State) : Out :=
  match fetch s with
  | .ok (i, rest) => exec i { s with pending := rest }
  | .error e => .refused (refusalOf e)

/-- The state with a table word and zero operand bytes as the next operation. -/
def placeWord (s : State) (nbits w : Nat) : State := { s with pending := tableBytes nbits w }

end Sys2Proof.Machine
end

