-- ==== Sys2Proof/Machine/Step.lean ====
section
/-! DEFINITION. The step: one operation of the block (R4), or nothing while no agent presents one. -/

namespace Sys2Proof.Machine

/-- One step. With nothing presented the state stays: it changes only by operations (R4). -/
def step (s : State) : Host.Outcome State Fault Refusal :=
  match s.pending with
  | [] => .next s
  | _ :: _ => stepNext s

/-- `s` with the operation of a table word, its operands zero, presented as the next one. -/
def State.withFetchWord (s : State) (nbits w : Nat) : State := placeWord s nbits w

end Sys2Proof.Machine
end

