-- ==== Sys2Proof/Machine/Trace.lean ====
section
/-! DEFINITION. The trace syntax of R83 and the pseudo-operations of R84, as functions: sequences of operations, and runs whose operands depend on the state. -/

namespace Sys2Proof.Machine

/-- Run a trace: the operations in order, each atomically, stopping at the first that has no next state (R83). -/
def runOps : List Instr → State → Out
  | [], s => .next s
  | i :: is, s => andThen (exec i s) (runOps is)

/-- `WC.BITS` (R84): WC.EDGE for a 1, WC.TICK for a 0. -/
def wcBits (bits : List Bool) : List Instr := bits.map fun b => if b then .wcEdge else .wcTick

/-- The bits of bytes in the order of the lines, bit 7 of each byte first (R46). -/
def lineBits (bytes : List Byte) : List Bool := bytes.flatMap fun b => (List.range 8).map (lineBit b)

/-- `WC.BYTES` (R84). -/
def wcBytes (bytes : List Byte) : List Instr := wcBits (lineBits bytes)

/-- `WC.WRITE` (R84): one whole capture. -/
def wcWrite (bits : List Bool) : List Instr := .wcEnter :: (wcBits bits ++ [.wcExit])

/-- `RD.RUN n` (R84): `n` bit cells, with the output bit after each. -/
def rdRun : Nat → State → Option (List Bool × State)
  | 0, s => some ([], s)
  | n + 1, s =>
    match exec .rdClk s with
    | .next t => (rdRun n t).map fun r => (t.pin.rd :: r.1, r.2)
    | _ => none

/-- Run a trace and collect `pin.rd` after each RD.CLK of it, whatever operations stand between the clocks. -/
def runBits : List Instr → State → Option (List Bool × State)
  | [], s => some ([], s)
  | i :: is, s =>
    match exec i s with
    | .next t => (runBits is t).map fun r => (if i = .rdClk then t.pin.rd :: r.1 else r.1, r.2)
    | _ => none

/-- `STP.FWD n` (R84): each sample is the phase after `head.last`. -/
def stpFwd : Nat → State → Out
  | 0, s => .next s
  | n + 1, s => andThen (exec (.stpSample (sampleOf (s.head.last + 1))) s) (stpFwd n)

/-- `STP.BWD n` (R84): each sample is the phase before `head.last`. -/
def stpBwd : Nat → State → Out
  | 0, s => .next s
  | n + 1, s => andThen (exec (.stpSample (sampleOf (s.head.last - 1))) s) (stpBwd n)

/-- `TICK.FWD n` (R84). -/
def tickFwd : Nat → State → Out
  | 0, s => .next s
  | n + 1, s => andThen (exec (.facTick (sampleOf (s.head.last + 1))) s) (tickFwd n)

/-- `TICK.BWD n` (R84). -/
def tickBwd : Nat → State → Out
  | 0, s => .next s
  | n + 1, s => andThen (exec (.facTick (sampleOf (s.head.last - 1))) s) (tickBwd n)

end Sys2Proof.Machine
end

