-- ==== Sys2Proof/Safety.lean ====
section
/-! DEFINITION. What counts as a good state and a safe step, and the formulas of the spec that the statements are written with. -/

namespace Sys2Proof.Machine

/-! ### Invariants between operations -/

/-- The four memories are in canonical form, inside their spaces (R40). -/
abbrev State.MemoriesOk (s : State) : Prop :=
  s.img.wf 143360 = true ∧ s.cache.data.wf 6656 = true ∧ s.rd.buf.wf 6656 = true ∧ s.wc.buf.wf 350 = true

/-- `head.phys` in 0..69 and `head.log = head.phys >> 1` (R19, R20). -/
abbrev Head.Ok (h : Head) : Prop := h.phys ≤ 69 ∧ h.log = h.phys / 2

/-- A valid tag is a track 0..34 of a loaded image; a dirty cache has a valid tag (R16, R144). -/
abbrev State.CacheOk (s : State) : Prop :=
  (∀ t ∈ s.cache.track, t ≤ 34 ∧ s.imgLoaded = true) ∧ (s.cache.dirty = true → s.cache.track.isSome = true)

/-- The stream position in range, a running reader has a snapshot, `pin.rd` low while deselected or stopped (R25, R24,
R26, R120, R121). -/
abbrev State.ReaderOk (s : State) : Prop :=
  s.rd.byte < 6656 ∧ s.rd.bit < 8 ∧ (s.rd.run = true → s.rd.filled = true) ∧
  (s.pin.selN = true → s.pin.rd = false) ∧ (s.rd.run = false → s.pin.rd = false)

/-- `wc.state` is Idle or Sampling (R142), the timer is armed exactly in Sampling (R33), the counters are in range (R28
to R32), the buffer starts with 0xD5 once it holds a byte (R44), and a known slot has its logical sector (R131). -/
abbrev State.CaptureOk (s : State) : Prop :=
  (s.wc.state = .idle ∨ s.wc.state = .sampling) ∧ (s.wc.timer = true ↔ s.wc.state = .sampling) ∧
  s.wc.pos < 6656 ∧ s.wc.phys < 16 ∧ s.wc.log < 16 ∧ s.wc.nbits < 8 ∧ s.wc.len ≤ 350 ∧ s.wc.cnt ≤ 25 ∧
  (s.wc.skipDone = false → s.wc.cnt < 25) ∧ (s.wc.synced = true ↔ 1 ≤ s.wc.len) ∧
  (1 ≤ s.wc.len → s.wc.buf.read 0 = 0xD5#8) ∧
  (s.wc.known = true → s.wc.log = (p2l s.params (Fin.ofNat 16 s.wc.phys)).val)

/-- The invariant of the block between any two operations. -/
abbrev State.Inv (s : State) : Prop :=
  s.MemoriesOk ∧ s.head.Ok ∧ s.CacheOk ∧ s.ReaderOk ∧ s.CaptureOk

/-- The reader and the capture engine exclude each other (R54). -/
abbrev State.LineExclusive (s : State) : Prop :=
  (s.wc.state ≠ .idle → s.rd.run = false) ∧ (s.wc.timer = true → s.rd.run = false)

/-- While the cache is clean it is the encoding of its track of the image (R60). -/
def State.CacheMirrorsImage (s : State) : Prop :=
  s.cache.dirty = false → ∀ t, s.cache.track = some t →
    s.cache.data = Memory.ofBytes 0 (trkEnc s.params s.img t)

/-- The reader streams the cached track and has emitted `n` bits of it since it was started or restored (R124): the
snapshot is the cache, the position is `n` modulo 53248 bits. -/
abbrev State.StreamAt (s : State) (n : Nat) : Prop :=
  s.rd.run = true ∧ s.rd.filled = true ∧ s.rd.buf = s.cache.data ∧ s.rd.byte = n % 53248 / 8 ∧ s.rd.bit = n % 8

/-- The operation stops the reader or restarts it: RD.STOP, RD.RESTORE, an accepted WC.ENTER or WC.EXIT, which contain
them (R129, R138), and RESET. An RD.START does neither to a reader that runs (R123). -/
abbrev breaksStream (i : Instr) (s : State) : Prop :=
  i = .rdStop ∨ i = .rdRestore ∨ (i = .wcEnter ∧ s.wc.state = .idle) ∨ (i = .wcExit ∧ s.wc.state = .sampling) ∨
  i = .reset

/-- The premises of R124 along a trace from `s`: the drive stays selected, `cache.data` unchanged, and no operation
stops or restarts the reader. Every other operation may stand between the clocks. -/
def SteadyStream : List Instr → State → Prop
  | [], _ => True
  | i :: is, s =>
    s.pin.selN = false ∧ ¬breaksStream i s ∧
    ∀ t, exec i s = .next t → t.cache.data = s.cache.data ∧ SteadyStream is t

/-- A step that does not end in a fault. -/
def Safe (o : Out) : Prop := ∀ r, o ≠ .fault r

/-! ### Formulas of the spec -/

/-- The 6-bit code `x[k]` of R72, written from the rule: three table values for `k < 86`, with `raw[256]` and
`raw[257]` taken as 0, and bits 7..2 of `raw[k - 86]` from there on. -/
def payloadCode (P : Params) (raw : List Byte) (k : Nat) : Code :=
  if k < 86 then
    P.lut0.toList.getD ((raw.getD k 0x00#8).toNat % 4) 0#6 |||
    P.lut1.toList.getD ((raw.getD (k + 86) 0x00#8).toNat % 4) 0#6 |||
    P.lut2.toList.getD ((raw.getD (k + 172) 0x00#8).toNat % 4) 0#6
  else BitVec.ofNat 6 ((raw.getD (k - 86) 0x00#8).toNat / 4)

/-- `payload[k]` of R72 from the codes: the running XOR, `x[-1] = 0`, closed by the table value of `x[341]`. -/
def payloadByte (P : Params) (raw : List Byte) (k : Nat) : Option Byte :=
  let x := payloadCode P raw
  let c : Code := if k = 0 then x 0 else if k < 342 then x k ^^^ x (k - 1) else x 341
  P.nib[c.toNat]?

/-- The address prologue D5 AA 96 at byte `q` of the snapshot, addresses modulo 6656 (R130). -/
def prologueStandsAt (buf : Memory) (q : Nat) : Prop :=
  buf.read q = 0xD5#8 ∧ buf.read ((q + 1) % 6656) = 0xAA#8 ∧ buf.read ((q + 2) % 6656) = 0x96#8

/-- The three bytes D5 AA 96 stand somewhere in `l`. -/
def holdsAddressPrologue (l : List Byte) : Prop := ∃ k, (l.drop k).take 3 = addressPrologue

/-- `buf` is the encoded track `track`, possibly with the data fields (record offsets 53 to 401) of some slots replaced
by bytes none of which is 0xD5 (R143). -/
abbrev trackWithOtherFields (buf : Memory) (track : List Byte) : Prop :=
  ∀ p, p < 16 →
    (∀ k, k < 416 → (k < 53 ∨ 401 < k) → buf.read (p * 416 + k) = track.getD (p * 416 + k) 0x00#8) ∧
    ((∀ k, 53 ≤ k → k ≤ 401 → buf.read (p * 416 + k) = track.getD (p * 416 + k) 0x00#8) ∨
     (∀ k, 53 ≤ k → k ≤ 401 → buf.read (p * 416 + k) ≠ 0xD5#8))

/-- How many cells of a pulse that starts with the byte 0xD5 precede the discarded one: 24, or 32 when the count starts
at 0 after that byte (R135, V40 to V42). -/
def skipPlace (P : Params) : Nat := if P.skipOrigin = .sync ∧ P.skipPreload = .zero then 32 else 24

/-- The bits of a write pulse that carries `field` with one extra cell `x` where the skip discards it (R135). -/
def pulseWithSkip (P : Params) (field : List Byte) (x : Bool) : List Bool :=
  (lineBits field).take (skipPlace P) ++ x :: (lineBits field).drop (skipPlace P)

end Sys2Proof.Machine
end

