-- ==== Sys2Proof/Certificates/Slice0/Obligations.lean ====
section
/-! DEFINITION. The statements for the provers. In each, `exec i s = .next t` with `t` written as an update of `s` says that everything the update does not name is as before: the frame. -/

open Sys2Proof Sys2Proof.Machine

/-! ### Encoding and the step -/

/-- Every well-formed operation decodes from its encoding, whatever follows it. The operand layout is the model's
(log entry 6); the ids are R81's. -/
def Obligations.DecodeEncodeRoundTrip : Prop :=
  ∀ (i : Instr) (rest : List Byte), i.wellFormed = true → decode (encode i ++ rest) = .ok (i, rest)

/-- Whatever decodes is the encoding of a well-formed operation: no two byte strings decode to one operation. The
operand layout it is about is the model's choice (DESIGN CHOICE, log entry 6); the ids are R81's. -/
def Obligations.DecodeReadsOnlyEncodings : Prop :=
  ∀ (bytes rest : List Byte) (i : Instr),
    decode bytes = .ok (i, rest) → i.wellFormed = true ∧ bytes = encode i ++ rest

/-- An id that R81 does not list names no operation (R80): the step is refused. -/
def Obligations.UnassignedIdsAreRefused : Prop :=
  ∀ (s : State) (id : Byte) (rest : List Byte), s.pending = id :: rest →
    id.toNat ∉ [0x00, 0x01, 0x02, 0x03, 0x04, 0x05, 0x06, 0x07, 0x10, 0x11, 0x12, 0x13, 0x18, 0x19, 0x1A, 0x20, 0x21,
      0x30, 0x31, 0x32, 0x33, 0x34, 0x40, 0x41, 0x42, 0x43, 0x44, 0x45, 0x50, 0x51, 0x52, 0x60, 0x61, 0x68, 0x69, 0x6A,
      0x6B, 0x70] →
    step s = .refused (.unassigned id)

/-- A few words of R81 and of the programs P2 and P3, written out, decode to the operation they stand for. That an
operand follows its id as one byte is the model's layout (log entry 6), which P2 and P3 write too. -/
def Obligations.SpecWordsDecode : Prop :=
  decodeTableWord 8 0x30 = some .rdClk ∧ decodeTableWord 8 0x43 = some .wcExit ∧
  decodeTableWord 8 0x70 = some .reset ∧
  decode [0x60#8, 0x01#8] = .ok (.facTick 0x1#4, []) ∧ decode [0x60#8, 0x04#8, 0x43#8] = .ok (.facTick 0x4#4, [0x43#8])

/-- A step runs the operation the pending bytes decode to, on the state with those bytes taken off; with nothing
pending the state stays. Both clauses are the model's choice (DESIGN CHOICE, log entry 12): the spec has operations, each
one atomic step (R4), and gives no queue of them. -/
def Obligations.StepRunsTheDecodedOperation : Prop :=
  (∀ (s : State) (i : Instr) (rest : List Byte), decode s.pending = .ok (i, rest) →
    step s = exec i { s with pending := rest }) ∧
  (∀ s : State, s.pending = [] → step s = .next s)

/-! ### Codec tables -/

/-- NIB.ENC answers NIB_TABLE at the operand masked to 6 bits, for every operand byte (R85). NIB.DEC answers the code
whose table entry is the byte, or invalid when no entry is (R86, R74). Neither changes anything else. -/
def Obligations.NibOperationsReadTheCodeTable : Prop :=
  ∀ s : State,
    (∀ c : Byte, ∃ b, s.params.nib[(c &&& 0x3F#8).toNat]? = some b ∧
      exec (.nibEnc c) s = .next { s with answer := .byte b }) ∧
    (s.params.Admissible → ∀ b : Byte, ∃ r : Option Code,
      exec (.nibDec b) s = .next { s with answer := .codeOrInvalid r } ∧
      ∀ c : Code, r = some c ↔ s.params.nib[c.toNat]? = some b)

/-- The law of the code table, in both directions; the first holds exactly when the 64 entries are distinct (R87). -/
def Obligations.CodeTableLaw : Prop :=
  ∀ P : Params,
    ((∀ c : Code, nibDec P (nibEnc P (c.setWidth 8)) = some c) ↔ P.nib.toList.Nodup) ∧
    (∀ (b : Byte) (c : Code), nibDec P b = some c → nibEnc P (c.setWidth 8) = b)

/-- N44.ENC: the two bytes bit by bit (R69) and by their formulas (R88), for every byte; nothing else changes. -/
def Obligations.N44EncGivesTheNibblizedPair : Prop :=
  ∀ (s : State) (v : Byte), ∃ b0 b1 : Byte,
    exec (.n44Enc v) s = .next { s with answer := .pair b0 b1 } ∧
    b0 = 0xAA#8 ||| (v >>> 1) ∧ b1 = 0xAA#8 ||| v ∧
    (∀ k, k < 4 → b0.getLsbD (2 * k + 1) = true ∧ b0.getLsbD (2 * k) = v.getLsbD (2 * k + 1) ∧
      b1.getLsbD (2 * k + 1) = true ∧ b1.getLsbD (2 * k) = v.getLsbD (2 * k))

/-- N44.DEC of any two bytes, nibblized or not, takes the odd bits from the first and the even bits from the second
(R89), and changes nothing else; so it gives back the byte N44.ENC nibblized, and is not injective (R90). -/
def Obligations.N44DecTakesEvenBitsOfBothBytes : Prop :=
  (∀ (s : State) (b0 b1 : Byte), ∃ v : Byte,
    exec (.n44Dec b0 b1) s = .next { s with answer := .byte v } ∧
    v = ((b0 &&& 0x55#8) <<< 1) ||| (b1 &&& 0x55#8) ∧
    (∀ k, k < 4 → v.getLsbD (2 * k + 1) = b0.getLsbD (2 * k) ∧ v.getLsbD (2 * k) = b1.getLsbD (2 * k))) ∧
  (∀ (s : State) (v b0 b1 : Byte), exec (.n44Enc v) s = .next { s with answer := .pair b0 b1 } →
    exec (.n44Dec b0 b1) s = .next { s with answer := .byte v }) ∧
  (∃ b0 b1 c0 c1 : Byte, (b0, b1) ≠ (c0, c1) ∧ n44Dec b0 b1 = n44Dec c0 c1)

/-- PAIR.ENC answers the OR of the three table values (R91). PAIR.DEC answers, on every code, the three values whose
table entries are the three bit pairs of the code; the two operations undo each other (R92). Neither changes anything
else. -/
def Obligations.PairOperationsUseTheThreeTables : Prop :=
  ∀ s : State,
    (∀ a0 a1 a2 : Crumb, ∃ x0 x1 x2 : Code,
      s.params.lut0[a0.toNat]? = some x0 ∧ s.params.lut1[a1.toNat]? = some x1 ∧ s.params.lut2[a2.toNat]? = some x2 ∧
      exec (.pairEnc a0 a1 a2) s = .next { s with answer := .code (x0 ||| x1 ||| x2) }) ∧
    (s.params.Admissible →
      (∀ x : Code, ∃ a0 a1 a2 : Crumb,
        s.params.lut0[a0.toNat]? = some (x &&& 0x03#6) ∧ s.params.lut1[a1.toNat]? = some (x &&& 0x0C#6) ∧
        s.params.lut2[a2.toNat]? = some (x &&& 0x30#6) ∧
        exec (.pairDec x) s = .next { s with answer := .crumbs a0 a1 a2 } ∧
        exec (.pairEnc a0 a1 a2) s = .next { s with answer := .code x }) ∧
      (∀ (a0 a1 a2 : Crumb) (x : Code), exec (.pairEnc a0 a1 a2) s = .next { s with answer := .code x } →
        exec (.pairDec x) s = .next { s with answer := .crumbs a0 a1 a2 }))

/-- ILV.P2L answers the table entry and ILV.L2P the slot that has the sector as its entry, for all 16 operands; each
undoes the other (R93, R94, R95). -/
def Obligations.InterleaveIsABijection : Prop :=
  ∀ s : State, s.params.Admissible →
    (∀ p : BitVec 4, ∃ l : Fin 16, s.params.p2l[p.toNat]? = some l ∧
      exec (.ilvP2l p) s = .next { s with answer := .sector l } ∧
      exec (.ilvL2p (BitVec.ofNat 4 l.val)) s = .next { s with answer := .sector (Fin.ofNat 16 p.toNat) }) ∧
    (∀ l : BitVec 4, ∃ p : Fin 16, s.params.p2l[p.val]? = some (Fin.ofNat 16 l.toNat) ∧
      exec (.ilvL2p l) s = .next { s with answer := .sector p })

/-! ### Track encoder and decoder -/

/-- NIC.ENC of any 256 bytes answers 343 bytes, each by the formula of R72; nothing else changes. -/
def Obligations.NicEncPayloadFormula : Prop :=
  ∀ (s : State) (raw : List Byte), raw.length = 256 → ∃ payload : List Byte,
    exec (.nicEnc raw) s = .next { s with answer := .bytes payload } ∧ payload.length = 343 ∧
    ∀ k, k < 343 → payload[k]? = payloadByte s.params raw k

/-- NIC.DEC of 343 or more bytes whose first 343 are table entries answers a sector: its bytes from the running XOR
`v` of the codes, as R104 says; the last code is not tested (R105); nothing else changes. -/
def Obligations.NicDecUndoesTheRunningXor : Prop :=
  ∀ (s : State) (enc : List Byte) (c v : Nat → Code), s.params.Admissible → 343 ≤ enc.length →
    (∀ k, k < 343 → s.params.nib[(c k).toNat]? = enc[k]?) →
    v 0 = c 0 → (∀ k, v (k + 1) = c (k + 1) ^^^ v k) →
    ∃ raw : List Byte, exec (.nicDec enc) s = .next { s with answer := .bytes raw } ∧ raw.length = 256 ∧
      ∀ k, k < 256 →
        (raw.getD k 0x00#8).toNat / 4 = (v (86 + k)).toNat ∧
        (k < 86 → s.params.lut0[(raw.getD k 0x00#8).toNat % 4]? = some (v k &&& 0x03#6)) ∧
        (86 ≤ k → k < 172 → s.params.lut1[(raw.getD k 0x00#8).toNat % 4]? = some (v (k - 86) &&& 0x0C#6)) ∧
        (172 ≤ k → s.params.lut2[(raw.getD k 0x00#8).toNat % 4]? = some (v (k - 172) &&& 0x30#6))

/-- NIC.DEC with an invalid byte among the first 343 answers E_DECODE with the index of the first of them, the 343rd
byte included, and no data (R104, R156); nothing else changes. -/
def Obligations.NicDecReportsTheFirstInvalidByte : Prop :=
  ∀ (s : State) (enc : List Byte) (k : Nat) (b : Byte), k < 343 → enc[k]? = some b → b ∉ s.params.nib.toList →
    (∀ j, j < k → ∀ a, enc[j]? = some a → a ∈ s.params.nib.toList) →
    exec (.nicDec enc) s = .next { s with answer := .error (.decode k) }

/-- Encoding a sector and decoding the payload gives the sector back, for every sector and whatever bytes follow the
payload (R106). -/
def Obligations.SectorCodecRoundTrip : Prop :=
  ∀ (s : State) (raw more : List Byte), s.params.Admissible → raw.length = 256 → ∃ payload : List Byte,
    exec (.nicEnc raw) s = .next { s with answer := .bytes payload } ∧
    exec (.nicDec (payload ++ more)) s = .next { s with answer := .bytes raw }

/-- ADDR.ENC of any three bytes: prologue, the four nibblized pairs, epilogue, in that order (R99). ADDR.DEC of any 14
bytes: the prologue test and the four decoded pairs; the epilogue bytes are free and the checksum is returned as it is
(R107). Neither changes anything else. -/
def Obligations.AddressFieldCodec : Prop :=
  ∀ s : State,
    (∀ vol trk sec : Byte, ∃ field : List Byte,
      exec (.addrEnc vol trk sec) s = .next { s with answer := .bytes field } ∧ field =
      [0xD5#8, 0xAA#8, 0x96#8, 0xAA#8 ||| (vol >>> 1), 0xAA#8 ||| vol, 0xAA#8 ||| (trk >>> 1), 0xAA#8 ||| trk,
       0xAA#8 ||| (sec >>> 1), 0xAA#8 ||| sec, 0xAA#8 ||| ((vol ^^^ trk ^^^ sec) >>> 1),
       0xAA#8 ||| (vol ^^^ trk ^^^ sec), 0xDE#8, 0xAA#8, 0xEB#8]) ∧
    (∀ f0 f1 f2 f3 f4 f5 f6 f7 f8 f9 f10 f11 f12 f13 : Byte, ∃ r : AddressField,
      exec (.addrDec [f0, f1, f2, f3, f4, f5, f6, f7, f8, f9, f10, f11, f12, f13]) s
        = .next { s with answer := .address r } ∧
      (r.ok = true ↔ f0 = 0xD5#8 ∧ f1 = 0xAA#8 ∧ f2 = 0x96#8) ∧
      exec (.n44Dec f3 f4) s = .next { s with answer := .byte r.vol } ∧
      exec (.n44Dec f5 f6) s = .next { s with answer := .byte r.trk } ∧
      exec (.n44Dec f7 f8) s = .next { s with answer := .byte r.sec } ∧
      exec (.n44Dec f9 f10) s = .next { s with answer := .byte r.chk })

/-- SEC.ENC: the record of 416 bytes, field by field in the order of R65, the address field with VOLUME 0xFE, the track
and the physical slot (R100, R103). -/
def Obligations.SecEncRecordLayout : Prop :=
  ∀ (s : State) (T : Nat) (p : BitVec 4) (raw : List Byte), T ≤ 34 → raw.length = 256 →
    ∃ address payload record : List Byte,
      exec (.addrEnc 0xFE#8 (BitVec.ofNat 8 T) (p.setWidth 8)) s = .next { s with answer := .bytes address } ∧
      exec (.nicEnc raw) s = .next { s with answer := .bytes payload } ∧
      exec (.secEnc T p raw) s = .next { s with answer := .bytes record } ∧
      record =
        (List.replicate 22 0xFF#8 ++ s.params.selfSync.toList ++ address ++ List.replicate 5 0xFF#8 ++
         [0xD5#8, 0xAA#8, 0xAD#8] ++ payload ++ s.params.dataEpilogue.toList ++ List.replicate 14 0xFF#8) ∧
      s.params.selfSync.toList.length = 12 ∧ address.length = 14 ∧ payload.length = 343 ∧
      s.params.dataEpilogue.toList.length = 3

/-- TRK.ENC of any image and any track 0..34 answers 6656 bytes (R102); record `p` of them is SEC.ENC of slot `p` with
the 256 image bytes of logical sector P2L[p] (R101, R41). That the operand may be shorter than the image, the bytes it
does not give being 0, is the model's choice (DESIGN CHOICE, log entry 14); of a whole image there are none. -/
def Obligations.TrkEncSixteenRecords : Prop :=
  ∀ (s : State) (img : List Byte) (T : Nat), img.length ≤ 143360 → T ≤ 34 → ∃ track : List Byte,
    exec (.trkEnc img T) s = .next { s with answer := .bytes track } ∧ track.length = 6656 ∧
    ∀ (p : BitVec 4) (l : Fin 16), s.params.p2l[p.toNat]? = some l →
      exec (.secEnc T p ((List.range 256).map fun b => img.getD ((T * 16 + l.val) * 256 + b) 0x00#8)) s
        = .next { s with answer := .bytes ((track.drop (p.toNat * 416)).take 416) }

/-- FIELD.DEC: the prologue is tested first; behind a data prologue the outcome is NIC.DEC's, an error turned into
skip(decode), and one of the two comes about; the 346 bytes at offset 53 of any record SEC.ENC builds decode to the
sector it was built from (R108). Nothing but the answer changes. -/
def Obligations.FieldDecOutcomes : Prop :=
  ∀ s : State,
    (∀ (d0 d1 d2 : Byte) (payload : List Byte), payload.length = 343 →
      (¬(d0 = 0xD5#8 ∧ d1 = 0xAA#8 ∧ d2 = 0xAD#8) →
        exec (.fieldDec (d0 :: d1 :: d2 :: payload)) s = .next { s with answer := .skip .prologue }) ∧
      (d0 = 0xD5#8 ∧ d1 = 0xAA#8 ∧ d2 = 0xAD#8 →
        (∃ raw, exec (.nicDec payload) s = .next { s with answer := .bytes raw } ∧
          exec (.fieldDec (d0 :: d1 :: d2 :: payload)) s = .next { s with answer := .bytes raw }) ∨
        (∃ k, exec (.nicDec payload) s = .next { s with answer := .error (.decode k) } ∧
          exec (.fieldDec (d0 :: d1 :: d2 :: payload)) s = .next { s with answer := .skip (.decode k) }))) ∧
    (∀ (T : Nat) (p : BitVec 4) (raw : List Byte), s.params.Admissible → T ≤ 34 → raw.length = 256 →
      ∃ record : List Byte, exec (.secEnc T p raw) s = .next { s with answer := .bytes record } ∧
        exec (.fieldDec ((record.drop 53).take 346)) s = .next { s with answer := .bytes raw })

/-! ### StepperPositionTracker -/

/-- STP.SAMPLE: a sample that is not one-hot is recorded in `pin.phase` and otherwise ignored (R109); the transition of
a one-hot sample with index `ofs`, in its four cases, with the clamp and `head.phase` (R110, R111, R113). -/
def Obligations.StpSampleTransition : Prop :=
  ∀ s : State,
    (∀ sample : BitVec 4, (sample ≠ 0x1#4 ∧ sample ≠ 0x2#4 ∧ sample ≠ 0x4#4 ∧ sample ≠ 0x8#4) →
      exec (.stpSample sample) s = .next { s with pin := { s.pin with phase := sample }, answer := .ignored }) ∧
    (∀ ofs : Fin 4, ∃ phys : Nat,
      exec (.stpSample (BitVec.ofNat 4 (2 ^ ofs.val))) s = .next
        { s with
          pin := { s.pin with phase := BitVec.ofNat 4 (2 ^ ofs.val) }
          head := { phys := phys, log := phys / 2, phase := ofs, last := ofs }
          answer := .ok } ∧
      (ofs = s.head.last → phys = s.head.phys) ∧
      (ofs.val = (s.head.last.val + 1) % 4 → (phys : Int) = min (max ((s.head.phys : Int) + 1) 0) 69) ∧
      (ofs.val = (s.head.last.val + 3) % 4 → (phys : Int) = min (max ((s.head.phys : Int) - 1) 0) 69) ∧
      (ofs.val = (s.head.last.val + 2) % 4 → phys = s.head.phys))

/-- The law of the tracker: `n` strictly forward samples move the head from `T` to `clamp(T + n, 0, 69)`, `n` strictly
backward samples to `clamp(T - n, 0, 69)`, a non-adjacent jump keeps it and updates `head.last`, and repeating a sample
changes neither (R115). -/
def Obligations.TrackerLaw : Prop :=
  ∀ s : State, s.head.phys ≤ 69 →
    (∀ n : Nat, ∃ t, stpFwd n s = .next t ∧ t.head.phys = min (s.head.phys + n) 69 ∧
      t.head.last.val = (s.head.last.val + n) % 4) ∧
    (∀ n : Nat, ∃ t, stpBwd n s = .next t ∧ t.head.phys = s.head.phys - n) ∧
    (∃ t, exec (.stpSample (sampleOf (s.head.last + 2))) s = .next t ∧ t.head.phys = s.head.phys ∧
      t.head.last = s.head.last + 2) ∧
    (∀ n : Nat, ∃ t, runOps (List.replicate n (.stpSample (sampleOf s.head.last))) s = .next t ∧
      t.head.phys = s.head.phys ∧ t.head.last = s.head.last)

/-- STP.FORCE: the position is forced, and phase and last follow a one-hot reading and stay on any other (R114).
DBG.SETTRK: refused during a capture, E_RANGE above 34, else it records the reading and does the same; the cache is not
touched (R152). -/
def Obligations.StpForceAndSettrkForceTheHead : Prop :=
  ∀ (s : State) (T : Nat) (sample : BitVec 4),
    (T ≤ 34 → ∃ head : Head,
      exec (.stpForce T sample) s = .next { s with head := head, answer := .ok } ∧
      head.phys = 2 * T ∧ head.log = T ∧
      (∀ ofs : Fin 4, sample = BitVec.ofNat 4 (2 ^ ofs.val) → head.phase = ofs ∧ head.last = ofs) ∧
      ((∀ ofs : Fin 4, sample ≠ BitVec.ofNat 4 (2 ^ ofs.val)) →
        head.phase = s.head.phase ∧ head.last = s.head.last) ∧
      (s.wc.state = .idle → exec (.dbgSettrk T sample) s
        = .next { s with pin := { s.pin with phase := sample }, head := head, answer := .ok })) ∧
    (s.wc.state ≠ .idle → exec (.dbgSettrk T sample) s = .refused .duringCapture) ∧
    (s.wc.state = .idle → 34 < T → exec (.dbgSettrk T sample) s = .next { s with answer := .error .range })

/-! ### BitstreamReader -/

/-- RD.CLK while the reader runs: the bit of the snapshot on `pin.rd` if the drive is selected, the position advanced,
and at the end of the buffer the wrap, which refreshes the snapshot from a valid cache; while the reader is stopped it
is ignored (R118, R119, R120). -/
def Obligations.RdClkOneBitCell : Prop :=
  (∀ s : State, s.rd.run = false → exec .rdClk s = .next { s with answer := .ignored }) ∧
  (∀ s : State, s.rd.run = true → s.rd.filled = true → s.rd.byte < 6656 → s.rd.bit < 8 →
    exec .rdClk s = .next
      { s with
        pin := { s.pin with rd := !s.pin.selN && (s.rd.buf.read s.rd.byte).getLsbD (7 - s.rd.bit) }
        rd :=
          if s.rd.bit < 7 then { s.rd with bit := s.rd.bit + 1 }
          else if s.rd.byte < 6655 then { s.rd with byte := s.rd.byte + 1, bit := 0 }
          else if s.cache.track = none then { s.rd with byte := 0, bit := 0 }
          else { s.rd with buf := s.cache.data, byte := 0, bit := 0 }
        answer := .ok })

/-- RD.STOP: the reader stops and `pin.rd` goes low; position and snapshot stay (R121). RD.RESTORE: with a valid cache
the reader restarts from offset 0 on a fresh copy; with an INVALID one nothing is copied and `rd.run` stays as it is
(R122). RD.START acts only on a stopped reader with no capture in progress (R123); there it copies a cache that holds a
value, as every rebuild leaves it, and is refused on an INVALID one (R39). -/
def Obligations.ReaderStopRestoreStart : Prop :=
  ∀ s : State,
    exec .rdStop s = .next
      { s with rd := { s.rd with run := false }, pin := { s.pin with rd := false }, answer := .ok } ∧
    (s.cache.track ≠ none → exec .rdRestore s = .next
      { s with rd := { run := true, buf := s.cache.data, filled := true, byte := 0, bit := 0 }, answer := .ok }) ∧
    (s.cache.track = none → exec .rdRestore s = .next
      { s with rd := { s.rd with byte := 0, bit := 0 }, answer := .ok }) ∧
    (s.rd.run = false → s.wc.state = .idle → s.cache.track ≠ none → exec .rdStart s = .next
      { s with rd := { run := true, buf := s.cache.data, filled := true, byte := 0, bit := 0 }, answer := .ok }) ∧
    (s.rd.run = false → s.wc.state = .idle → s.cache.track = none → exec .rdStart s = .refused (.noValue .enc)) ∧
    (¬(s.rd.run = false ∧ s.wc.state = .idle) → exec .rdStart s = .next { s with answer := .ok })

/-- EV.SEL: the level of `pin.sel_n`, and `pin.rd` low on deselection; nothing else (R127). -/
def Obligations.EvSelEffect : Prop :=
  ∀ s : State,
    exec (.evSel true) s = .next { s with pin := { s.pin with selN := true, rd := false }, answer := .ok } ∧
    exec (.evSel false) s = .next { s with pin := { s.pin with selN := false }, answer := .ok }

/-- The periodicity law (R124). An RD.RESTORE of a valid cache, and an RD.START of one that starts the reader, leave the
stream at bit 0. From there, along any run of operations in which the drive stays selected, `cache.data` is unchanged and
nothing stops or restarts the reader, whatever else stands between the RD.CLKs, the `k`-th of them sets `pin.rd` to bit
`7 - k mod 8` of byte `(k mod 53248) / 8` of the cache, for any number of wraps. A run of RD.CLKs alone is such a run, of
every length. -/
def Obligations.ReaderPeriodicity : Prop :=
  (∀ s : State, s.cache.track ≠ none →
    (∃ t, exec .rdRestore s = .next t ∧ t.StreamAt 0) ∧
    (s.rd.run = false → s.wc.state = .idle → ∃ t, exec .rdStart s = .next t ∧ t.StreamAt 0)) ∧
  (∀ (s t : State) (ops : List Instr) (out : List Bool), s.StreamAt 0 → SteadyStream ops s →
    runBits ops s = some (out, t) →
    out.length = ops.count .rdClk ∧ t.StreamAt out.length ∧
    ∀ k, k < out.length → out[k]? = some ((s.cache.data.read (k % 53248 / 8)).getLsbD (7 - k % 8))) ∧
  (∀ (s : State) (n : Nat), s.StreamAt 0 → s.pin.selN = false →
    SteadyStream (List.replicate n .rdClk) s ∧
    ∃ (out : List Bool) (t : State), runBits (List.replicate n .rdClk) s = some (out, t) ∧ rdRun n s = some (out, t))

/-- The invariant behind the periodicity law: a step that leaves `cache.data` unchanged and neither stops nor restarts
the reader keeps the snapshot equal to the cache and the position equal to the number of clocks modulo 53248, an RD.CLK
counting one; and that RD.CLK puts the bit of the count on `pin.rd` while the drive is selected, and 0 while it is not
(R118, R119, R120). -/
def Obligations.EveryStepKeepsTheStream : Prop :=
  ∀ (s t : State) (n : Nat), s.StreamAt n → step s = .next t → t.cache.data = s.cache.data →
    (∀ i rest, decode s.pending = .ok (i, rest) → ¬breaksStream i s) →
    ((∃ rest, decode s.pending = .ok (.rdClk, rest)) → t.StreamAt (n + 1) ∧
      t.pin.rd = (!s.pin.selN && (s.cache.data.read (n % 53248 / 8)).getLsbD (7 - n % 8))) ∧
    ((¬∃ rest, decode s.pending = .ok (.rdClk, rest)) → t.StreamAt n)

/-! ### WriteCaptureEngine -/

/-- WC.ENTER from Idle: the reader stopped, its offset recorded, assembler, buffer length, synchronization and skip
counter cleared, the timer armed, the state Sampling; only `wc.known`, `wc.phys`, `wc.log` come from the scan (R129). -/
def Obligations.WcEnterEffect : Prop :=
  ∀ s : State, s.wc.state = .idle → ∃ (known : Bool) (phys log : Nat), exec .wcEnter s = .next
    { s with
      pin := { s.pin with weN := false, rd := false }
      rd := { s.rd with run := false }
      wc := { state := .sampling, pos := s.rd.byte, known := known, phys := phys, log := log, shift := 0x00#8,
              nbits := 0, synced := false, buf := s.wc.buf, len := 0, cnt := 0,
              counting := decide (s.params.skipOrigin = .we), skipDone := false, timer := true }
      answer := .ok }

/-- The sector-locate scan of WC.ENTER: the first address prologue going backward among 450 positions, modulo 6656, ends
it; a sector value 0..15 there makes the slot known with its logical sector, a larger one, no prologue in the window,
or no snapshot leave it unknown (R130, R131). -/
def Obligations.WcEnterLocatesTheSector : Prop :=
  ∀ s t : State, s.wc.state = .idle → s.rd.byte < 6656 → exec .wcEnter s = .next t →
    (s.rd.filled = false → t.wc.known = false) ∧
    (s.rd.filled = true →
      ((∀ k, k < 450 → ¬prologueStandsAt s.rd.buf ((s.rd.byte + 6656 - k) % 6656)) → t.wc.known = false) ∧
      (∀ k, k < 450 → prologueStandsAt s.rd.buf ((s.rd.byte + 6656 - k) % 6656) →
        (∀ j, j < k → ¬prologueStandsAt s.rd.buf ((s.rd.byte + 6656 - j) % 6656)) →
        ∀ v : Byte,
          v = n44Dec (s.rd.buf.read ((s.rd.byte + 6656 - k + 7) % 6656))
                (s.rd.buf.read ((s.rd.byte + 6656 - k + 8) % 6656)) →
          (16 ≤ v.toNat → t.wc.known = false) ∧
          (v.toNat ≤ 15 → t.wc.known = true ∧ t.wc.phys = v.toNat ∧
            (s.params.p2l[v.toNat]?).map Fin.val = some t.wc.log)))

/-- On a snapshot that is an encoded track of any image, possibly with data fields replaced by bytes none of which is
0xD5, the address prologue stands at the offsets `p * 416 + 34` and nowhere else, and the scan finds the slot whose
prologue is the nearest at or before the offset, cyclically (R143). It needs a code table without 0xD5, as the default
is, and a SELF_SYNC and a DATA_EPILOGUE that do not hold D5 AA 96; the two-bit tables and P2L are free. -/
def Obligations.ScanFindsTheNearestSlot : Prop :=
  ∀ (s : State) (img : Memory) (T : Nat),
    0xD5#8 ∉ s.params.nib.toList → ¬holdsAddressPrologue s.params.selfSync.toList → ¬holdsAddressPrologue s.params.dataEpilogue.toList →
    T ≤ 34 → trackWithOtherFields s.rd.buf (trkEnc s.params img T) →
    (∀ q, q < 6656 → (prologueStandsAt s.rd.buf q ↔ q % 416 = 34)) ∧
    (s.rd.filled = true → s.wc.state = .idle → s.rd.byte < 6656 → ∃ t, exec .wcEnter s = .next t ∧
      t.wc.known = true ∧ t.wc.phys = (s.rd.byte + 6656 - 34) % 6656 / 416)

/-- WC.EDGE and WC.TICK in Sampling are WC.APPEND of 1 and of 0, an accepted transition toggling `pin.wd`; a transition
while deselected, and either event outside Sampling, is ignored (R132, R133). -/
def Obligations.EdgeAndTickAppendOneBit : Prop :=
  ∀ s : State,
    (s.wc.state = .sampling → s.pin.selN = false → ∃ t, exec .wcEdge s = .next t ∧
      exec (.wcAppend true) { s with pin := { s.pin with wd := !s.pin.wd } } = .next t) ∧
    (s.wc.state = .sampling → s.wc.timer = true → ∃ t, exec .wcTick s = .next t ∧
      exec (.wcAppend false) s = .next t) ∧
    ((s.wc.state ≠ .sampling ∨ s.pin.selN = true) → exec .wcEdge s = .next { s with answer := .ignored }) ∧
    ((s.wc.state ≠ .sampling ∨ s.wc.timer = false) → exec .wcTick s = .next { s with answer := .ignored })

/-- WC.APPEND of a bit that enters the byte in progress without completing it, and of the 25th counted bit, which
enters no byte (R134, R135). -/
def Obligations.WcAppendShiftsOrDiscards : Prop :=
  ∀ (s : State) (b : Bool),
    (s.wc.counting = true → s.wc.skipDone = false → s.wc.cnt = 24 → exec (.wcAppend b) s = .next
      { s with wc := { s.wc with cnt := 25, skipDone := true }, answer := .ok }) ∧
    (¬(s.wc.counting = true ∧ s.wc.skipDone = false ∧ s.wc.cnt = 24) → s.wc.nbits < 7 → exec (.wcAppend b) s = .next
      { s with
        wc :=
          { s.wc with
            cnt := if s.wc.counting = true ∧ s.wc.skipDone = false then s.wc.cnt + 1 else s.wc.cnt
            shift := BitVec.ofNat 8 (2 * s.wc.shift.toNat + b.toNat)
            nbits := s.wc.nbits + 1 }
        answer := .ok })

/-- WC.APPEND of the eighth bit: before synchronization the byte is dropped unless it is 0xD5, which starts the buffer
and, when the count starts at synchronization, the count; after it the byte is appended, or dropped at 350 (R136,
R137). Every other byte of the buffer and the rest of the state stay. -/
def Obligations.WcAppendCompletesAByte : Prop :=
  ∀ (s : State) (b : Bool), s.wc.buf.wf 350 = true → s.wc.nbits = 7 →
    ¬(s.wc.counting = true ∧ s.wc.skipDone = false ∧ s.wc.cnt = 24) →
    ∃ (B : Byte) (wc' : Capture),
      B = BitVec.ofNat 8 (2 * s.wc.shift.toNat + b.toNat) ∧
      exec (.wcAppend b) s = .next { s with wc := wc', answer := .ok } ∧
      wc'.shift = B ∧ wc'.nbits = 0 ∧ wc'.state = s.wc.state ∧ wc'.pos = s.wc.pos ∧ wc'.known = s.wc.known ∧
      wc'.phys = s.wc.phys ∧ wc'.log = s.wc.log ∧ wc'.skipDone = s.wc.skipDone ∧ wc'.timer = s.wc.timer ∧
      (s.wc.synced = false → B ≠ 0xD5#8 →
        wc'.synced = false ∧ wc'.len = s.wc.len ∧ wc'.buf = s.wc.buf ∧ wc'.counting = s.wc.counting) ∧
      (s.wc.synced = false → B = 0xD5#8 →
        wc'.synced = true ∧ wc'.len = 1 ∧ wc'.buf.read 0 = 0xD5#8 ∧
        (∀ a, a ≠ 0 → wc'.buf.read a = s.wc.buf.read a) ∧
        (s.params.skipOrigin = .sync → wc'.counting = true ∧ wc'.cnt = s.params.skipPreload.count) ∧
        (s.params.skipOrigin = .we → wc'.counting = s.wc.counting)) ∧
      (s.wc.synced = true → s.wc.len < 350 →
        wc'.synced = true ∧ wc'.len = s.wc.len + 1 ∧ wc'.buf.read s.wc.len = B ∧
        (∀ a, a ≠ s.wc.len → wc'.buf.read a = s.wc.buf.read a) ∧ wc'.counting = s.wc.counting) ∧
      (s.wc.synced = true → 350 ≤ s.wc.len →
        wc'.synced = true ∧ wc'.len = s.wc.len ∧ wc'.buf = s.wc.buf ∧ wc'.counting = s.wc.counting) ∧
      (¬(s.wc.synced = false ∧ B = 0xD5#8 ∧ s.params.skipOrigin = .sync) →
        wc'.cnt = if s.wc.counting = true ∧ s.wc.skipDone = false then s.wc.cnt + 1 else s.wc.cnt)

/-- Fed the bits of bytes after synchronization, with no skip pending (nothing is being counted, or the one bit has been
discarded already), the engine appends exactly those bytes, bit 7 of each first (R46, R134, R137). -/
def Obligations.CaptureAppendsWholeBytes : Prop :=
  ∀ (s : State) (bytes : List Byte), s.wc.buf.wf 350 = true → s.wc.state = .sampling → s.wc.timer = true →
    s.pin.selN = false → s.wc.synced = true → s.wc.nbits = 0 → (s.wc.counting = false ∨ s.wc.skipDone = true) →
    s.wc.len + bytes.length ≤ 350 →
    ∃ t, runOps (wcBytes bytes) s = .next t ∧ t.wc.len = s.wc.len + bytes.length ∧ t.wc.nbits = 0 ∧
      (∀ k, k < bytes.length → bytes[k]? = some (t.wc.buf.read (s.wc.len + k))) ∧
      (∀ a, a < s.wc.len → t.wc.buf.read a = s.wc.buf.read a)

/-- One write pulse that carries a field starting with 0xD5 leaves exactly that field in the capture buffer, for every
setting of SKIP_ORIGIN and SKIP_PRELOAD: with one extra cell, of either value, where the skip of the instance discards it,
if the field reaches that place, and without one if the pulse ends there or before (R135; testable property 8). -/
def Obligations.CaptureRecoversTheWrittenField : Prop :=
  ∀ (s : State) (field : List Byte), s.wc.buf.wf 350 = true → s.wc.state = .idle → s.pin.selN = false →
    field[0]? = some 0xD5#8 → field.length ≤ 350 →
    (∀ x : Bool, skipPlace s.params ≤ 8 * field.length →
      ∃ t, runOps (.wcEnter :: wcBits (pulseWithSkip s.params field x)) s = .next t ∧
        t.wc.state = .sampling ∧ t.wc.synced = true ∧ t.wc.skipDone = true ∧ t.wc.nbits = 0 ∧
        t.wc.len = field.length ∧ t.wc.buf.block 0 t.wc.len = field) ∧
    (8 * field.length ≤ skipPlace s.params →
      ∃ t, runOps (.wcEnter :: wcBytes field) s = .next t ∧
        t.wc.state = .sampling ∧ t.wc.synced = true ∧ t.wc.skipDone = false ∧ t.wc.nbits = 0 ∧
        t.wc.len = field.length ∧ t.wc.buf.block 0 t.wc.len = field)

/-- WC.COMPLETE of a data field for a known slot of a valid cache: the first min(len, 349) captured bytes stand in the
slot's data field, every other byte of ENC is as before, and the cache is dirty (R139). -/
def Obligations.WcCompleteInstallsTheField : Prop :=
  ∀ s : State, s.cache.data.wf 6656 = true → 3 ≤ s.wc.len → s.wc.buf.read 0 = 0xD5#8 → s.wc.buf.read 1 = 0xAA#8 →
    s.wc.buf.read 2 = 0xAD#8 → s.wc.known = true → s.wc.phys < 16 → s.cache.track ≠ none →
    ∃ data : Memory,
      exec .wcComplete s = .next { s with cache := { s.cache with data := data, dirty := true }, answer := .ok } ∧
      (∀ k, k < min s.wc.len 349 → data.read (s.wc.phys * 416 + 53 + k) = s.wc.buf.read k) ∧
      (∀ a, ¬(s.wc.phys * 416 + 53 ≤ a ∧ a < s.wc.phys * 416 + 53 + min s.wc.len 349) →
        data.read a = s.cache.data.read a)

/-- What WC.COMPLETE discards: no synchronization, one or two bytes, another prologue, an unknown slot or an INVALID
cache, the first failing test naming the outcome; nothing else changes (R140, R165). -/
def Obligations.WcCompleteDiscards : Prop :=
  ∀ s : State,
    (s.wc.len = 0 → exec .wcComplete s = .next { s with answer := .error .noSync }) ∧
    (1 ≤ s.wc.len → s.wc.len < 3 → exec .wcComplete s = .next { s with answer := .error .notData }) ∧
    (3 ≤ s.wc.len →
      ¬(s.wc.buf.read 0 = 0xD5#8 ∧ s.wc.buf.read 1 = 0xAA#8 ∧ s.wc.buf.read 2 = 0xAD#8) →
      exec .wcComplete s = .next { s with answer := .error .notData }) ∧
    (3 ≤ s.wc.len → s.wc.buf.read 0 = 0xD5#8 → s.wc.buf.read 1 = 0xAA#8 → s.wc.buf.read 2 = 0xAD#8 →
      (s.wc.known = false ∨ s.cache.track = none) →
      exec .wcComplete s = .next { s with answer := .error .noSector })

/-- WC.EXIT from Sampling: timer stopped, the reader restored from the cache as it was before the install, then the
field completed, and the state Idle, whatever the completion's outcome (R138, R168). -/
def Obligations.WcExitRestoresThenCompletes : Prop :=
  ∀ s : State, s.wc.state = .sampling → (s.wc.known = true → s.wc.phys < 16) →
    ∃ u v : State,
      exec .rdRestore { s with pin := { s.pin with weN := true },
                               wc := { s.wc with state := .flushing, timer := false } } = .next u ∧
      exec .wcComplete u = .next v ∧ exec .wcExit s = .next { v with wc := { v.wc with state := .idle } } ∧
      v.rd = u.rd

/-- Capture events in the wrong state are ignored (R141). -/
def Obligations.EventsOutOfPlaceAreIgnored : Prop :=
  ∀ s : State,
    (s.wc.state ≠ .idle → exec .wcEnter s = .next { s with answer := .ignored }) ∧
    (s.wc.state ≠ .sampling → exec .wcExit s = .next { s with answer := .ignored } ∧
      exec .wcEdge s = .next { s with answer := .ignored } ∧ exec .wcTick s = .next { s with answer := .ignored })

/-! ### TrackCache -/

/-- TC.REBUILD outside a capture, of a loaded image: the cache is the 16 records of the track and its tag the track;
`cache.dirty` stays (R146). -/
def Obligations.TcRebuildEncodesTheTrack : Prop :=
  ∀ (s : State) (T : Nat), s.wc.state = .idle → s.imgLoaded = true → T ≤ 34 → ∃ data : Memory,
    exec (.tcRebuild T) s
      = .next { s with cache := { data := data, track := some T, dirty := s.cache.dirty }, answer := .ok } ∧
    (∀ (p : BitVec 4) (l : Fin 16), s.params.p2l[p.toNat]? = some l →
      exec (.secEnc T p (s.img.block ((T * 16 + l.val) * 256) 256)) s
        = .next { s with answer := .bytes (data.block (p.toNat * 416) 416) }) ∧
    (∀ a, 6656 ≤ a → data.read a = 0x00#8)

/-- TC.RECONCILE outside a capture, of a valid cache of a loaded image: each of the 16 slots whose data field decodes
is written to its logical sector, a slot that does not leaves its sector alone, every byte outside the track is as
before, and the storage is notified once of the track after the write-back (R145, R147, R156). The answer of the
storage is a free value. -/
def Obligations.TcReconcileWritesDecodedSlots : Prop :=
  ∀ (s : State) (t : Nat), s.wc.state = .idle → s.cache.track = some t → t ≤ 34 → s.imgLoaded = true →
    s.img.wf 143360 = true → s.params.Admissible → ∃ (img : Memory) (stored : Bool),
      exec .tcReconcile s = .next
        { s with
          img := img
          saves := s.saves ++
            [{ name := s.imageName, track := t, bytes := img.block (t * 4096) 4096, answer := stored }]
          draws := s.draws + 1
          answer := .ok } ∧
      (∀ (p l : Fin 16), s.params.p2l[p.val]? = some l →
        (∀ raw, exec (.fieldDec (s.cache.data.block (p.val * 416 + 53) 346)) s
            = .next { s with answer := .bytes raw } → img.block ((t * 16 + l.val) * 256) 256 = raw) ∧
        (∀ e, exec (.fieldDec (s.cache.data.block (p.val * 416 + 53) 346)) s
            = .next { s with answer := .skip e } →
          img.block ((t * 16 + l.val) * 256) 256 = s.img.block ((t * 16 + l.val) * 256) 256)) ∧
      (∀ a, ¬(t * 4096 ≤ a ∧ a < t * 4096 + 4096) → img.read a = s.img.read a)

/-- TC.SELECT of the cached track does nothing, also when the cache is dirty. TC.SELECT of another track with a clean
cache: the cache TC.REBUILD makes, clean, and the reader started on it if it was stopped (R144, R123). -/
def Obligations.TcSelectOfCachedAndCleanTracks : Prop :=
  ∀ (s : State) (T : Nat), s.wc.state = .idle → T ≤ 34 →
    (s.cache.track = some T → exec (.tcSelect T) s = .next { s with answer := .ok }) ∧
    (s.cache.track ≠ some T → s.cache.dirty = false → s.imgLoaded = true →
      ∃ u : State, exec (.tcRebuild T) s = .next u ∧
        exec (.tcSelect T) s = .next
          { s with
            cache := { data := u.cache.data, track := some T, dirty := false }
            rd := if s.rd.run = true then s.rd
                  else { run := true, buf := u.cache.data, filled := true, byte := 0, bit := 0 }
            answer := .ok })

/-- TC.SELECT of another track with a dirty cache first does what TC.RECONCILE does, then what it does with a clean
cache (R144). -/
def Obligations.TcSelectReconcilesADirtyCache : Prop :=
  ∀ (s : State) (T t : Nat), s.wc.state = .idle → T ≤ 34 → s.cache.track = some t → t ≤ 34 → t ≠ T →
    s.cache.dirty = true → s.imgLoaded = true → ∃ u v : State,
      exec .tcReconcile s = .next u ∧
      exec (.tcSelect T) { u with cache := { u.cache with dirty := false } } = .next v ∧
      exec (.tcSelect T) s = .next v

/-- The write-through law: a captured field that encodes a sector, installed by WC.EXIT into a clean cache that mirrors
the image, stands in the image after the next track change, at the slot's logical sector of the cached track; every
other byte of the image is as before (R154). -/
def Obligations.WriteThroughLaw : Prop :=
  ∀ (s : State) (T T' : Nat) (p l : Fin 16) (raw payload : List Byte),
    s.MemoriesOk → s.params.Admissible → s.imgLoaded = true → T ≤ 34 → T' ≤ 34 → T' ≠ T →
    s.cache.track = some T → s.cache.dirty = false → s.cache.data = Memory.ofBytes 0 (trkEnc s.params s.img T) →
    s.wc.state = .sampling → s.wc.known = true → s.wc.phys = p.val → s.params.p2l[p.val]? = some l →
    raw.length = 256 → exec (.nicEnc raw) s = .next { s with answer := .bytes payload } →
    346 ≤ s.wc.len → s.wc.len ≤ 350 → s.wc.buf.block 0 346 = [0xD5#8, 0xAA#8, 0xAD#8] ++ payload →
    ∃ u t : State, exec .wcExit s = .next u ∧ exec (.tcSelect T') u = .next t ∧
      t.img.block ((T * 16 + l.val) * 256) 256 = raw ∧
      (∀ a, ¬((T * 16 + l.val) * 256 ≤ a ∧ a < (T * 16 + l.val) * 256 + 256) → t.img.read a = s.img.read a) ∧
      t.cache.track = some T' ∧ t.cache.dirty = false

/-! ### EmulatorFacade and debug commands -/

/-- FAC.TICK while a capture is in progress runs the tracker and nothing else (R148 steps 1 and 2, R182). -/
def Obligations.FacTickDuringACaptureOnlyTracks : Prop :=
  ∀ (s : State) (sample : BitVec 4), s.wc.state ≠ .idle → ∃ t, exec (.stpSample sample) s = .next t ∧
    exec (.facTick sample) s = .next { t with answer := .ok }

/-- FAC.TICK outside a capture, once an image is loaded: the tracker, then TC.SELECT of the head's track if it is not
the cached one, then the rotation clock by an unspecified amount (R148, R35). The new `rot` is a free value. -/
def Obligations.FacTickSelectsTheHeadsTrack : Prop :=
  ∀ (s : State) (sample : BitVec 4), s.Inv → s.wc.state = .idle → s.imgLoaded = true →
    ∃ (t u : State) (rot : Nat), exec (.stpSample sample) s = .next t ∧
      (t.cache.track = some t.head.log → u = t) ∧
      (t.cache.track ≠ some t.head.log → exec (.tcSelect t.head.log) t = .next u) ∧
      exec (.facTick sample) s = .next { u with rot := rot, draws := u.draws + 1, answer := .ok } ∧
      u.cache.track = some t.head.log

/-- FAC.LOAD is refused during a capture; else: every byte of the image from the operand, zero-padded or truncated; the head on the
bring-up track, resynchronized to a one-hot reading of the phase pins; the cache INVALID and clean; the reader and all
else untouched (R149). The name the host supplies (R147) is a free value. -/
def Obligations.FacLoadReplacesTheImage : Prop :=
  ∀ (s : State) (bytes : List Byte),
    (s.wc.state ≠ .idle → exec (.facLoad bytes) s = .refused .duringCapture) ∧
    (s.wc.state = .idle → ∃ (img : Memory) (head : Head) (name : Nat),
    exec (.facLoad bytes) s = .next
      { s with
        img := img
        imgLoaded := true
        imageName := name
        draws := s.draws + 1
        head := head
        cache := { data := s.cache.data, track := none, dirty := false }
        answer := .ok } ∧
    (∀ a, a < 143360 → img.read a = bytes.getD a 0x00#8) ∧ (∀ a, 143360 ≤ a → img.read a = 0x00#8) ∧
    exec (.stpForce s.params.bringup.val s.pin.phase) s = .next { s with head := head, answer := .ok })

/-- DBG.RDSEC of a loaded image answers the 256 bytes of the sector at `(t * 16 + s) * 256` of IMG, in every state of
the capture engine, and E_RANGE out of range (R150, R41). DBG.DUMP answers tag, dirty bit and the 6656 bytes of a valid
cache, and no data while the tag is INVALID (R153, U28). Neither writes anything. -/
def Obligations.DbgRdsecAndDumpOnlyRead : Prop :=
  ∀ s : State,
    (∀ t sec : Nat, t ≤ 34 → sec ≤ 15 → s.imgLoaded = true → ∃ bytes : List Byte,
      exec (.dbgRdsec t sec) s = .next { s with answer := .bytes bytes } ∧ bytes.length = 256 ∧
      ∀ b, b < 256 → bytes[b]? = some (s.img.read ((t * 16 + sec) * 256 + b))) ∧
    (∀ t sec : Nat, (34 < t ∨ 15 < sec) → exec (.dbgRdsec t sec) s = .next { s with answer := .error .range }) ∧
    (s.cache.track = none → exec .dbgDump s = .next { s with answer := .dump none s.cache.dirty none }) ∧
    (∀ t, s.cache.track = some t → ∃ bytes : List Byte,
      exec .dbgDump s = .next { s with answer := .dump (some t) s.cache.dirty (some bytes) } ∧
      bytes.length = 6656 ∧ ∀ a, a < 6656 → bytes[a]? = some (s.cache.data.read a))

/-- DBG.WRSEC: refused during a capture, E_RANGE out of range; else it writes the 256 bytes of the sector and no other
byte, and neither the cache nor the reader is touched (R151). -/
def Obligations.DbgWrsecWritesTheSector : Prop :=
  ∀ (s : State) (t sec : Nat) (data : List Byte),
    (s.wc.state = .idle → t ≤ 34 → sec ≤ 15 → data.length = 256 → s.img.wf 143360 = true → ∃ img : Memory,
      exec (.dbgWrsec t sec data) s = .next { s with img := img, answer := .ok } ∧
      (∀ b, b < 256 → data[b]? = some (img.read ((t * 16 + sec) * 256 + b))) ∧
      (∀ a, ¬((t * 16 + sec) * 256 ≤ a ∧ a < (t * 16 + sec) * 256 + 256) → img.read a = s.img.read a)) ∧
    (s.wc.state ≠ .idle → exec (.dbgWrsec t sec data) s = .refused .duringCapture) ∧
    (s.wc.state = .idle → (34 < t ∨ 15 < sec) →
      exec (.dbgWrsec t sec data) s = .next { s with answer := .error .range })

/-- A track above 34 or a sector above 15 is rejected with E_RANGE before any access, and no state changes (R160). -/
def Obligations.OutOfRangeInputsAreRejected : Prop :=
  ∀ (s : State) (t sec : Nat) (data : List Byte) (sample : BitVec 4),
    ((34 < t ∨ 15 < sec) → exec (.dbgRdsec t sec) s = .next { s with answer := .error .range }) ∧
    (s.wc.state = .idle → (34 < t ∨ 15 < sec) →
      exec (.dbgWrsec t sec data) s = .next { s with answer := .error .range }) ∧
    (s.wc.state = .idle → 34 < t →
      exec (.dbgSettrk t sample) s = .next { s with answer := .error .range } ∧
      exec (.tcSelect t) s = .next { s with answer := .error .range })

/-- The operations R55 names are refused while a capture is armed, and FAC.TICK returns early, the tracker run and
nothing else done. -/
def Obligations.MainTickOperationsRefusedDuringACapture : Prop :=
  ∀ (s : State) (T t sec : Nat) (bytes data : List Byte) (sample : BitVec 4), s.wc.state ≠ .idle →
    exec (.tcSelect T) s = .refused .duringCapture ∧ exec .tcReconcile s = .refused .duringCapture ∧
    exec (.tcRebuild T) s = .refused .duringCapture ∧ exec (.facLoad bytes) s = .refused .duringCapture ∧
    exec (.dbgWrsec t sec data) s = .refused .duringCapture ∧
    exec (.dbgSettrk T sample) s = .refused .duringCapture ∧
    (∃ u, exec (.stpSample sample) s = .next u ∧ exec (.facTick sample) s = .next { u with answer := .ok })

/-- Before the first FAC.LOAD the operations that would read the image are refused, and a FAC.TICK at its third step
(R14, R177). -/
def Obligations.ImageReadsRefusedBeforeTheFirstLoad : Prop :=
  ∀ (s : State) (T t sec : Nat) (sample : BitVec 4), s.imgLoaded = false → s.cache.track = none →
    s.cache.dirty = false → s.wc.state = .idle → s.head.Ok → t ≤ 34 → sec ≤ 15 → T ≤ 34 →
    exec (.dbgRdsec t sec) s = .refused (.noValue .img) ∧ exec (.tcRebuild T) s = .refused (.noValue .img) ∧
    exec (.tcSelect T) s = .refused (.noValue .img) ∧ exec (.facTick sample) s = .refused (.noValue .img)

/-! ### Reset -/

/-- RESET, in every state: the values of R39 and R176; `head.last` is some phase and `head.phase` the same; the image
and the snapshot hold no value; the tables are unaffected and the input pins, which only the environment writes (R34),
stay. -/
def Obligations.ResetLeavesTheTableOfReset : Prop :=
  ∀ s : State, ∃ t, exec .reset s = .next t ∧
    t.cache.track = none ∧ t.cache.dirty = false ∧ t.head.phys = 2 * s.params.bringup.val ∧
    t.head.log = s.params.bringup.val ∧ t.head.phase = t.head.last ∧ t.rd.run = false ∧ t.rd.byte = 0 ∧ t.rd.bit = 0 ∧
    t.pin.rd = false ∧ t.wc.state = .idle ∧ t.wc.known = false ∧ t.wc.shift = 0x00#8 ∧ t.wc.nbits = 0 ∧
    t.wc.synced = false ∧ t.wc.len = 0 ∧ t.wc.cnt = 0 ∧ t.wc.counting = false ∧ t.wc.skipDone = false ∧
    t.wc.timer = false ∧ t.imgLoaded = false ∧ t.rd.filled = false ∧ t.lineMode = .read ∧
    t.params = s.params ∧ t.pin.phase = s.pin.phase ∧ t.pin.selN = s.pin.selN ∧ t.pin.weN = s.pin.weN ∧
    t.pin.wd = s.pin.wd

/-! ### Rules of the whole machine -/

/-- The reset state meets the invariant and the exclusivity of the line. -/
def Obligations.ResetMeetsTheInvariant : Prop :=
  State.reset.Inv ∧ State.reset.LineExclusive ∧ State.reset.pin.weN = true ∧ State.reset.wc.state = .idle

/-- Every step keeps the invariant: memories canonical, head in 0..69 with its logical track, a valid tag a track of a
loaded image, the stream position in range and `pin.rd` low while deselected or stopped, the capture registers in
range, the buffer starting with 0xD5. -/
def Obligations.EveryStepKeepsTheInvariant : Prop :=
  ∀ s t : State, s.Inv → step s = .next t → t.Inv

/-- Every step that is not an internal operation issued on its own keeps reader and capture engine exclusive (R54). -/
def Obligations.EveryStepKeepsTheLineExclusive : Prop :=
  ∀ s t : State, s.Inv → s.LineExclusive →
    (∀ i rest, decode s.pending = .ok (i, rest) → i.opClass ≠ .internal) → step s = .next t → t.LineExclusive

/-- No step from a state that meets the invariant ends in a fault: every access stays inside its address space (R45,
R50). -/
def Obligations.NoStepLeavesTheAddressSpaces : Prop :=
  ∀ s : State, s.Inv → Safe (step s)

/-- While the cache is clean it is the encoding of its track: every step keeps that, but an internal operation issued
on its own and a DBG.WRSEC of the cached track (R60). -/
def Obligations.CleanCacheMirrorsTheImage : Prop :=
  ∀ s t : State, s.Inv → s.CacheMirrorsImage →
    (∀ i rest, decode s.pending = .ok (i, rest) →
      i.opClass ≠ .internal ∧ ∀ tr sec data, i = .dbgWrsec tr sec data → s.cache.track ≠ some tr) →
    step s = .next t → t.CacheMirrorsImage

/-- Each address space is written only by the operations R40 and R49 name, the parts of an operation counted with it
(and by RESET). -/
def Obligations.SpacesHaveOnlyTheirWriters : Prop :=
  ∀ (i : Instr) (s t : State), exec i s = .next t → i ≠ .reset →
    (t.img ≠ s.img → (∃ b, i = .facLoad b) ∨ (∃ tr sec d, i = .dbgWrsec tr sec d) ∨ i = .tcReconcile ∨
      (∃ T, i = .tcSelect T) ∨ (∃ x, i = .facTick x)) ∧
    (t.cache.data ≠ s.cache.data → (∃ T, i = .tcRebuild T) ∨ (∃ T, i = .tcSelect T) ∨ (∃ x, i = .facTick x) ∨
      i = .wcComplete ∨ i = .wcExit) ∧
    (t.rd.buf ≠ s.rd.buf → i = .rdClk ∨ i = .rdRestore ∨ i = .rdStart ∨ i = .wcExit ∨ (∃ T, i = .tcSelect T) ∨
      (∃ x, i = .facTick x)) ∧
    (t.wc.buf ≠ s.wc.buf → i = .wcEdge ∨ i = .wcTick ∨ (∃ b, i = .wcAppend b))

/-- The head is moved only by the tracker's operations and those that issue them (R19, R116, R117), the constant tables
and parameters are written by none (R37), and `cache.dirty` is set only by field completion and cleared only by a track
change, an image load or RESET (R17, R39). -/
def Obligations.HeadAndParametersHaveOnlyTheirWriters : Prop :=
  ∀ (i : Instr) (s t : State), exec i s = .next t →
    t.params = s.params ∧
    (t.head ≠ s.head → (∃ x, i = .stpSample x) ∨ (∃ T x, i = .stpForce T x) ∨ (∃ x, i = .facTick x) ∨
      (∃ b, i = .facLoad b) ∨ (∃ T x, i = .dbgSettrk T x) ∨ i = .reset) ∧
    (t.cache.dirty = true → s.cache.dirty = false → i = .wcExit ∨ i = .wcComplete) ∧
    (t.cache.dirty = false → s.cache.dirty = true →
      (∃ T, i = .tcSelect T) ∨ (∃ x, i = .facTick x) ∨ (∃ b, i = .facLoad b) ∨ i = .reset)
end

