-- ==== Sys2Proof/Laws/Memory.lean ====
section
/-! SUPPORT. Laws of the address spaces: reading after writing, blocks, and that every memory operation keeps the canonical form. -/

namespace Sys2Proof.Machine

/-! ### Reading -/

@[simp] theorem Memory.read_nil (x : Nat) : Memory.read [] x = Memory.blank := rfl

theorem Memory.read_cons (a : Nat) (b : Byte) (m : Memory) (x : Nat) :
    Memory.read ((a, b) :: m) x = if a = x then b else Memory.read m x := rfl

theorem Memory.wfFrom_cons (size lo a : Nat) (b : Byte) (m : Memory) :
    Memory.wfFrom size lo ((a, b) :: m) = true ↔
      lo ≤ a ∧ a < size ∧ b ≠ Memory.blank ∧ Memory.wfFrom size (a + 1) m = true := by
  simp [Memory.wfFrom, and_assoc]

theorem Memory.wfFrom_mono {size lo lo' : Nat} {m : Memory} (h : Memory.wfFrom size lo m = true) (hl : lo' ≤ lo) :
    Memory.wfFrom size lo' m = true := by
  cases m with
  | nil => rfl
  | cons c m =>
    obtain ⟨a, b⟩ := c
    rw [Memory.wfFrom_cons] at h ⊢
    exact ⟨hl.trans h.1, h.2⟩

/-- Below the lowest listed address everything reads blank. -/
theorem Memory.read_below {size lo : Nat} {m : Memory} (h : Memory.wfFrom size lo m = true) {x : Nat} (hx : x < lo) :
    m.read x = Memory.blank := by
  induction m generalizing lo with
  | nil => rfl
  | cons c m ih =>
    obtain ⟨a, b⟩ := c
    rw [Memory.wfFrom_cons] at h
    rw [Memory.read_cons, if_neg (by omega)]
    exact ih h.2.2.2 (by omega)

/-- Outside the space everything reads blank. -/
theorem Memory.read_above {size lo : Nat} {m : Memory} (h : Memory.wfFrom size lo m = true) {x : Nat} (hx : size ≤ x) :
    m.read x = Memory.blank := by
  induction m generalizing lo with
  | nil => rfl
  | cons c m ih =>
    obtain ⟨a, b⟩ := c
    rw [Memory.wfFrom_cons] at h
    rw [Memory.read_cons, if_neg (by omega)]
    exact ih h.2.2.2

/-- Two memories in canonical form that read alike are the same memory. -/
theorem Memory.ext_of_read {size lo : Nat} {m m' : Memory} (h : Memory.wfFrom size lo m = true)
    (h' : Memory.wfFrom size lo m' = true) (heq : ∀ x, m.read x = m'.read x) : m = m' := by
  induction m generalizing lo m' with
  | nil =>
    cases m' with
    | nil => rfl
    | cons c m' =>
      obtain ⟨a, b⟩ := c
      rw [Memory.wfFrom_cons] at h'
      have := heq a
      rw [Memory.read_cons, if_pos rfl, Memory.read_nil] at this
      exact absurd this.symm h'.2.2.1
  | cons c m ih =>
    obtain ⟨a, b⟩ := c
    rw [Memory.wfFrom_cons] at h
    cases m' with
    | nil =>
      have := heq a
      rw [Memory.read_cons, if_pos rfl, Memory.read_nil] at this
      exact absurd this h.2.2.1
    | cons c' m' =>
      obtain ⟨a', b'⟩ := c'
      rw [Memory.wfFrom_cons] at h'
      have haa : a = a' := by
        rcases Nat.lt_trichotomy a a' with hlt | heq' | hlt
        · have := heq a
          rw [Memory.read_cons, if_pos rfl, Memory.read_cons, if_neg (by omega),
            Memory.read_below h'.2.2.2 (by omega)] at this
          exact absurd this h.2.2.1
        · exact heq'
        · have := heq a'
          rw [Memory.read_cons, if_neg (by omega), Memory.read_below h.2.2.2 (by omega),
            Memory.read_cons, if_pos rfl] at this
          exact absurd this.symm h'.2.2.1
      subst haa
      have hb : b = b' := by simpa [Memory.read_cons] using heq a
      subst hb
      have htail : m = m' := by
        refine ih h.2.2.2 h'.2.2.2 fun x => ?_
        by_cases hx : a = x
        · subst hx
          rw [Memory.read_below h.2.2.2 (by omega), Memory.read_below h'.2.2.2 (by omega)]
        · simpa [Memory.read_cons, hx] using heq x
      rw [htail]

/-! ### Writing one byte -/

theorem Memory.write_wfFrom {size lo : Nat} {m : Memory} (h : Memory.wfFrom size lo m = true) {x : Nat}
    (hlo : lo ≤ x) (hx : x < size) (b : Byte) : Memory.wfFrom size lo (m.write x b) = true := by
  induction m generalizing lo with
  | nil =>
    by_cases hb : b = Memory.blank
    · simp [Memory.write, hb, Memory.wfFrom]
    · simp [Memory.write, hb, Memory.wfFrom, hlo, hx]
  | cons c m ih =>
    obtain ⟨a, b'⟩ := c
    rw [Memory.wfFrom_cons] at h
    obtain ⟨h1, h2, h3, h4⟩ := h
    unfold Memory.write
    split
    · rw [Memory.wfFrom_cons]
      exact ⟨h1, h2, h3, ih h4 (by omega)⟩
    · split
      · rename_i hne heq
        subst heq
        split
        · exact Memory.wfFrom_mono h4 (by omega)
        · rw [Memory.wfFrom_cons]
          exact ⟨h1, h2, by assumption, h4⟩
      · split
        · rw [Memory.wfFrom_cons]
          exact ⟨h1, h2, h3, h4⟩
        · rw [Memory.wfFrom_cons, Memory.wfFrom_cons]
          exact ⟨hlo, hx, by assumption, by omega, h2, h3, h4⟩

/-- Reading after a write: the written byte at its address, the old byte everywhere else. -/
theorem Memory.read_write {size lo : Nat} {m : Memory} (h : Memory.wfFrom size lo m = true) (x : Nat) (b : Byte)
    (y : Nat) : (m.write x b).read y = if y = x then b else m.read y := by
  induction m generalizing lo with
  | nil =>
    by_cases hb : b = Memory.blank <;> by_cases hy : y = x <;> simp [Memory.write, hb, hy, Memory.read_cons]
    omega
  | cons c m ih =>
    obtain ⟨a, b'⟩ := c
    rw [Memory.wfFrom_cons] at h
    obtain ⟨h1, h2, h3, h4⟩ := h
    unfold Memory.write
    split
    · rw [Memory.read_cons, ih h4, Memory.read_cons]
      split <;> split <;> first | rfl | omega
    · split
      · rename_i hne heq
        subst heq
        split
        · rename_i hb
          rw [Memory.read_cons]
          by_cases hy : y = a
          · subst hy
            rw [Memory.read_below h4 (by omega), if_pos rfl, hb]
          · rw [if_neg hy, if_neg (by omega)]
        · rw [Memory.read_cons, Memory.read_cons]
          split <;> split <;> first | rfl | omega
      · have hlow : ∀ z, z < a → Memory.read ((a, b') :: m) z = Memory.blank := fun z hz => by
          rw [Memory.read_cons, if_neg (by omega), Memory.read_below h4 (by omega)]
        split
        · rename_i hb
          by_cases hy : y = x
          · subst hy
            rw [hlow _ (by omega), if_pos rfl, hb]
          · rw [if_neg hy]
        · rw [Memory.read_cons]
          split <;> split <;> first | rfl | omega

/-! ### Writing several bytes -/

theorem Memory.writeList_wfFrom {size lo : Nat} {m : Memory} (h : Memory.wfFrom size lo m = true) {a : Nat}
    (bs : List Byte) (hlo : lo ≤ a) (ha : a + bs.length ≤ size) : Memory.wfFrom size lo (m.writeList a bs) = true := by
  induction bs generalizing m a with
  | nil => exact h
  | cons b bs ih =>
    rw [List.length_cons] at ha
    exact ih (Memory.write_wfFrom h hlo (by omega) b) (by omega) (by omega)

/-- Reading after a block write: the block's bytes at its addresses, the old byte everywhere else. -/
theorem Memory.read_writeList {size : Nat} {m : Memory} (h : m.wf size = true) {a : Nat} (bs : List Byte)
    (ha : a + bs.length ≤ size) (y : Nat) :
    (m.writeList a bs).read y = if a ≤ y ∧ y < a + bs.length then bs.getD (y - a) 0x00#8 else m.read y := by
  induction bs generalizing m a with
  | nil =>
    rw [if_neg (by simp)]
    rfl
  | cons b bs ih =>
    rw [List.length_cons] at ha
    have hw : (m.write a b).wf size = true := Memory.write_wfFrom h (by omega) (by omega) b
    rw [Memory.writeList, ih hw (by omega), Memory.read_write h, List.length_cons]
    by_cases hy : y = a
    · subst hy
      rw [if_neg (by omega), if_pos rfl, if_pos (by omega), Nat.sub_self]
      rfl
    · by_cases hr : a + 1 ≤ y ∧ y < a + 1 + bs.length
      · rw [if_pos hr, if_pos (by omega), show y - a = (y - (a + 1)) + 1 by omega]
        rfl
      · rw [if_neg hr, if_neg hy, if_neg (by omega)]

theorem Memory.ofBytes_wfFrom {size : Nat} (a : Nat) (bs : List Byte) (ha : a + bs.length ≤ size) :
    Memory.wfFrom size a (Memory.ofBytes a bs) = true := by
  induction bs generalizing a with
  | nil => rfl
  | cons b bs ih =>
    rw [List.length_cons] at ha
    have htail := ih (a + 1) (by omega)
    unfold Memory.ofBytes
    split
    · exact Memory.wfFrom_mono htail (by omega)
    · rw [Memory.wfFrom_cons]
      exact ⟨Nat.le_refl a, by omega, by assumption, htail⟩

theorem Memory.read_ofBytes_below (a : Nat) (bs : List Byte) (y : Nat) (hy : y < a) :
    (Memory.ofBytes a bs).read y = 0x00#8 :=
  Memory.read_below (Memory.ofBytes_wfFrom (size := a + bs.length) a bs (Nat.le_refl _)) hy

/-- The memory of a list of bytes reads as the list, and blank outside it. -/
theorem Memory.read_ofBytes (a : Nat) (bs : List Byte) (y : Nat) :
    (Memory.ofBytes a bs).read y = if a ≤ y ∧ y < a + bs.length then bs.getD (y - a) 0x00#8 else 0x00#8 := by
  induction bs generalizing a with
  | nil =>
    rw [if_neg (by simp)]
    rfl
  | cons b bs ih =>
    have hlow := Memory.read_ofBytes_below (a + 1) bs a (by omega)
    have key : (Memory.ofBytes a (b :: bs)).read y = if a = y then b else (Memory.ofBytes (a + 1) bs).read y := by
      rw [Memory.ofBytes]
      split
      · rename_i hb
        by_cases hy : a = y
        · subst hy
          rw [if_pos rfl, hlow, hb]
          rfl
        · rw [if_neg hy]
      · rw [Memory.read_cons]
    rw [key, ih, List.length_cons]
    by_cases hy : a = y
    · subst hy
      rw [if_pos rfl, if_pos (by omega), Nat.sub_self]
      rfl
    · by_cases hr : a + 1 ≤ y ∧ y < a + 1 + bs.length
      · rw [if_neg hy, if_pos hr, if_pos (by omega), show y - a = (y - (a + 1)) + 1 by omega]
        rfl
      · rw [if_neg hy, if_neg hr, if_neg (by omega)]

/-! ### Blocks -/

@[simp] theorem Memory.block_length (m : Memory) (a n : Nat) : (m.block a n).length = n := by
  simp [Memory.block]

theorem Memory.block_getD (m : Memory) (a n k : Nat) (hk : k < n) : (m.block a n).getD k 0x00#8 = m.read (a + k) := by
  simp [Memory.block, List.getD_eq_getElem?_getD, List.getElem?_range hk]

/-- Memories that read alike on a block have the same block. -/
theorem Memory.block_congr {m m' : Memory} {a n : Nat} (h : ∀ k < n, m.read (a + k) = m'.read (a + k)) :
    m.block a n = m'.block a n := by
  refine List.map_congr_left fun k hk => h k ?_
  simpa using hk

/-- A block just written reads back as written. -/
theorem Memory.block_writeList {size : Nat} {m : Memory} (h : m.wf size = true) {a : Nat} (bs : List Byte)
    (ha : a + bs.length ≤ size) : (m.writeList a bs).block a bs.length = bs := by
  refine List.ext_getElem (by simp) fun k hk hk' => ?_
  simp only [Memory.block, List.getElem_map, List.getElem_range]
  rw [Memory.read_writeList h bs ha, if_pos (by omega), Nat.add_sub_cancel_left, List.getD_eq_getElem?_getD,
    List.getElem?_eq_getElem hk']
  rfl

/-! ### Every memory operation keeps the canonical form -/

theorem Memory.wf_nil (size : Nat) : Memory.wf size [] = true := rfl

theorem Memory.wf_write {size : Nat} {m : Memory} (h : m.wf size = true) {x : Nat} (hx : x < size) (b : Byte) :
    (m.write x b).wf size = true := Memory.write_wfFrom h (Nat.zero_le x) hx b

theorem Memory.wf_writeList {size : Nat} {m : Memory} (h : m.wf size = true) {a : Nat} (bs : List Byte)
    (ha : a + bs.length ≤ size) : (m.writeList a bs).wf size = true := Memory.writeList_wfFrom h bs (Nat.zero_le a) ha

theorem Memory.wf_ofBytes {size : Nat} (bs : List Byte) (h : bs.length ≤ size) :
    (Memory.ofBytes 0 bs).wf size = true := Memory.ofBytes_wfFrom 0 bs (by omega)

theorem imageOf_wf (bytes : List Byte) : (imageOf bytes).wf 143360 = true :=
  Memory.wf_ofBytes _ (by simp [List.length_take])

end Sys2Proof.Machine
end

