-- ==== Sys2Proof/Laws/Codec.lean ====
section
/-! SUPPORT. Lengths of what the codec functions give, and the memory of an encoded track. -/

namespace Sys2Proof.Machine

theorem xorChain_length (P : Params) (ox : Code) (xs : List Code) : (xorChain P ox xs).length = xs.length + 1 := by
  induction xs generalizing ox with
  | nil => rfl
  | cons x xs ih => simp [xorChain, ih]

theorem sectorCodes_length (P : Params) (raw : List Byte) : (sectorCodes P raw).length = 86 + raw.length := by
  simp [sectorCodes]

theorem nicEnc_length (P : Params) {raw : List Byte} (h : raw.length = 256) : (nicEnc P raw).length = 343 := by
  simp [nicEnc, xorChain_length, sectorCodes_length, h]

theorem sectorOf_length (P : Params) (v : List Code) : (sectorOf P v).length = 256 := by simp [sectorOf]

theorem nicDec_length {P : Params} {enc raw : List Byte} (h : nicDec P enc = .ok raw) : raw.length = 256 := by
  unfold nicDec at h
  split at h
  · cases h
  · cases h
    exact sectorOf_length P _

theorem fieldDec_length {P : Params} {d raw : List Byte} (h : fieldDec P d = .ok raw) : raw.length = 256 := by
  unfold fieldDec at h
  split at h
  · split at h
    · cases h
    · cases h
      exact nicDec_length (by assumption)
  · cases h

theorem addrEnc_length (vol trk sec : Byte) : (addrEnc vol trk sec).length = 14 := rfl

theorem secEnc_length (P : Params) (T : Nat) (p : Fin 16) {raw : List Byte} (h : raw.length = 256) :
    (secEnc P T p raw).length = 416 := by
  simp [secEnc, syncBytes, addrEnc_length, dataPrologue, nicEnc_length P h]

theorem flatMap_length_const {α : Type} (f : α → List Byte) (n : Nat) (l : List α) (h : ∀ a, (f a).length = n) :
    (l.flatMap f).length = l.length * n := by
  induction l with
  | nil => simp
  | cons a l ih => simp [ih, h, Nat.add_mul, Nat.add_comm]

theorem trkEnc_length (P : Params) (img : Memory) (T : Nat) : (trkEnc P img T).length = 6656 := by
  rw [trkEnc, flatMap_length_const _ 416 _ fun p => secEnc_length P T p (Memory.block_length _ _ _)]
  simp

/-- The cache a rebuild leaves is in canonical form. -/
theorem trkEnc_wf (P : Params) (img : Memory) (T : Nat) : (Memory.ofBytes 0 (trkEnc P img T)).wf 6656 = true :=
  Memory.wf_ofBytes _ (trkEnc_length P img T).le

/-- The memory of a list of bytes holds the list. -/
theorem Memory.block_ofBytes (bs : List Byte) : (Memory.ofBytes 0 bs).block 0 bs.length = bs := by
  refine List.ext_getElem (by simp) fun k hk hk' => ?_
  simp only [Memory.block, List.getElem_map, List.getElem_range]
  rw [Memory.read_ofBytes, if_pos (by omega), Nat.zero_add, Nat.sub_zero, List.getD_eq_getElem?_getD,
    List.getElem?_eq_getElem hk']
  rfl

end Sys2Proof.Machine
end

