-- ==== Sys2Proof/Laws/State.lean ====
section
/-! SUPPORT. One lemma per field for each named update of the state, so that no later proof unfolds a record update. -/

namespace Sys2Proof.Machine

/-! ### `stopReader` -/

@[simp] theorem stopReader_img (s : State) : (stopReader s).img = s.img := rfl
@[simp] theorem stopReader_cache (s : State) : (stopReader s).cache = s.cache := rfl
@[simp] theorem stopReader_head (s : State) : (stopReader s).head = s.head := rfl
@[simp] theorem stopReader_wc (s : State) : (stopReader s).wc = s.wc := rfl
@[simp] theorem stopReader_rot (s : State) : (stopReader s).rot = s.rot := rfl
@[simp] theorem stopReader_imageName (s : State) : (stopReader s).imageName = s.imageName := rfl
@[simp] theorem stopReader_saves (s : State) : (stopReader s).saves = s.saves := rfl
@[simp] theorem stopReader_imgLoaded (s : State) : (stopReader s).imgLoaded = s.imgLoaded := rfl
@[simp] theorem stopReader_params (s : State) : (stopReader s).params = s.params := rfl
@[simp] theorem stopReader_answer (s : State) : (stopReader s).answer = s.answer := rfl
@[simp] theorem stopReader_draws (s : State) : (stopReader s).draws = s.draws := rfl
@[simp] theorem stopReader_pending (s : State) : (stopReader s).pending = s.pending := rfl

/-! ### `restoreReader` -/

@[simp] theorem restoreReader_img (s : State) : (restoreReader s).img = s.img := rfl
@[simp] theorem restoreReader_cache (s : State) : (restoreReader s).cache = s.cache := rfl
@[simp] theorem restoreReader_head (s : State) : (restoreReader s).head = s.head := rfl
@[simp] theorem restoreReader_wc (s : State) : (restoreReader s).wc = s.wc := rfl
@[simp] theorem restoreReader_pin (s : State) : (restoreReader s).pin = s.pin := rfl
@[simp] theorem restoreReader_rot (s : State) : (restoreReader s).rot = s.rot := rfl
@[simp] theorem restoreReader_imageName (s : State) : (restoreReader s).imageName = s.imageName := rfl
@[simp] theorem restoreReader_saves (s : State) : (restoreReader s).saves = s.saves := rfl
@[simp] theorem restoreReader_imgLoaded (s : State) : (restoreReader s).imgLoaded = s.imgLoaded := rfl
@[simp] theorem restoreReader_params (s : State) : (restoreReader s).params = s.params := rfl
@[simp] theorem restoreReader_answer (s : State) : (restoreReader s).answer = s.answer := rfl
@[simp] theorem restoreReader_draws (s : State) : (restoreReader s).draws = s.draws := rfl
@[simp] theorem restoreReader_pending (s : State) : (restoreReader s).pending = s.pending := rfl

/-! ### `appendBit` -/

@[simp] theorem appendBit_img (b : Bool) (s : State) : (appendBit b s).img = s.img := rfl
@[simp] theorem appendBit_cache (b : Bool) (s : State) : (appendBit b s).cache = s.cache := rfl
@[simp] theorem appendBit_head (b : Bool) (s : State) : (appendBit b s).head = s.head := rfl
@[simp] theorem appendBit_rd (b : Bool) (s : State) : (appendBit b s).rd = s.rd := rfl
@[simp] theorem appendBit_pin (b : Bool) (s : State) : (appendBit b s).pin = s.pin := rfl
@[simp] theorem appendBit_rot (b : Bool) (s : State) : (appendBit b s).rot = s.rot := rfl
@[simp] theorem appendBit_imageName (b : Bool) (s : State) : (appendBit b s).imageName = s.imageName := rfl
@[simp] theorem appendBit_saves (b : Bool) (s : State) : (appendBit b s).saves = s.saves := rfl
@[simp] theorem appendBit_imgLoaded (b : Bool) (s : State) : (appendBit b s).imgLoaded = s.imgLoaded := rfl
@[simp] theorem appendBit_params (b : Bool) (s : State) : (appendBit b s).params = s.params := rfl
@[simp] theorem appendBit_answer (b : Bool) (s : State) : (appendBit b s).answer = s.answer := rfl
@[simp] theorem appendBit_draws (b : Bool) (s : State) : (appendBit b s).draws = s.draws := rfl
@[simp] theorem appendBit_pending (b : Bool) (s : State) : (appendBit b s).pending = s.pending := rfl

/-! ### `notifySave` -/

@[simp] theorem notifySave_img (t : Nat) (s : State) : (notifySave t s).img = s.img := rfl
@[simp] theorem notifySave_cache (t : Nat) (s : State) : (notifySave t s).cache = s.cache := rfl
@[simp] theorem notifySave_head (t : Nat) (s : State) : (notifySave t s).head = s.head := rfl
@[simp] theorem notifySave_rd (t : Nat) (s : State) : (notifySave t s).rd = s.rd := rfl
@[simp] theorem notifySave_wc (t : Nat) (s : State) : (notifySave t s).wc = s.wc := rfl
@[simp] theorem notifySave_pin (t : Nat) (s : State) : (notifySave t s).pin = s.pin := rfl
@[simp] theorem notifySave_rot (t : Nat) (s : State) : (notifySave t s).rot = s.rot := rfl
@[simp] theorem notifySave_imageName (t : Nat) (s : State) : (notifySave t s).imageName = s.imageName := rfl
@[simp] theorem notifySave_imgLoaded (t : Nat) (s : State) : (notifySave t s).imgLoaded = s.imgLoaded := rfl
@[simp] theorem notifySave_params (t : Nat) (s : State) : (notifySave t s).params = s.params := rfl
@[simp] theorem notifySave_answer (t : Nat) (s : State) : (notifySave t s).answer = s.answer := rfl
@[simp] theorem notifySave_pending (t : Nat) (s : State) : (notifySave t s).pending = s.pending := rfl

/-! ### `advanceRot` -/

@[simp] theorem advanceRot_img (s : State) : (advanceRot s).img = s.img := rfl
@[simp] theorem advanceRot_cache (s : State) : (advanceRot s).cache = s.cache := rfl
@[simp] theorem advanceRot_head (s : State) : (advanceRot s).head = s.head := rfl
@[simp] theorem advanceRot_rd (s : State) : (advanceRot s).rd = s.rd := rfl
@[simp] theorem advanceRot_wc (s : State) : (advanceRot s).wc = s.wc := rfl
@[simp] theorem advanceRot_pin (s : State) : (advanceRot s).pin = s.pin := rfl
@[simp] theorem advanceRot_imageName (s : State) : (advanceRot s).imageName = s.imageName := rfl
@[simp] theorem advanceRot_saves (s : State) : (advanceRot s).saves = s.saves := rfl
@[simp] theorem advanceRot_imgLoaded (s : State) : (advanceRot s).imgLoaded = s.imgLoaded := rfl
@[simp] theorem advanceRot_params (s : State) : (advanceRot s).params = s.params := rfl
@[simp] theorem advanceRot_answer (s : State) : (advanceRot s).answer = s.answer := rfl
@[simp] theorem advanceRot_pending (s : State) : (advanceRot s).pending = s.pending := rfl

/-! ### `sampleHead` -/

@[simp] theorem sampleHead_img (sample : BitVec 4) (s : State) : (sampleHead sample s).img = s.img := by unfold sampleHead; split <;> rfl
@[simp] theorem sampleHead_cache (sample : BitVec 4) (s : State) : (sampleHead sample s).cache = s.cache := by unfold sampleHead; split <;> rfl
@[simp] theorem sampleHead_rd (sample : BitVec 4) (s : State) : (sampleHead sample s).rd = s.rd := by unfold sampleHead; split <;> rfl
@[simp] theorem sampleHead_wc (sample : BitVec 4) (s : State) : (sampleHead sample s).wc = s.wc := by unfold sampleHead; split <;> rfl
@[simp] theorem sampleHead_rot (sample : BitVec 4) (s : State) : (sampleHead sample s).rot = s.rot := by unfold sampleHead; split <;> rfl
@[simp] theorem sampleHead_imageName (sample : BitVec 4) (s : State) : (sampleHead sample s).imageName = s.imageName := by unfold sampleHead; split <;> rfl
@[simp] theorem sampleHead_saves (sample : BitVec 4) (s : State) : (sampleHead sample s).saves = s.saves := by unfold sampleHead; split <;> rfl
@[simp] theorem sampleHead_imgLoaded (sample : BitVec 4) (s : State) : (sampleHead sample s).imgLoaded = s.imgLoaded := by unfold sampleHead; split <;> rfl
@[simp] theorem sampleHead_params (sample : BitVec 4) (s : State) : (sampleHead sample s).params = s.params := by unfold sampleHead; split <;> rfl
@[simp] theorem sampleHead_answer (sample : BitVec 4) (s : State) : (sampleHead sample s).answer = s.answer := by unfold sampleHead; split <;> rfl
@[simp] theorem sampleHead_draws (sample : BitVec 4) (s : State) : (sampleHead sample s).draws = s.draws := by unfold sampleHead; split <;> rfl
@[simp] theorem sampleHead_pending (sample : BitVec 4) (s : State) : (sampleHead sample s).pending = s.pending := by unfold sampleHead; split <;> rfl

@[simp] theorem stopReader_rd (s : State) : (stopReader s).rd = { s.rd with run := false } := rfl
@[simp] theorem stopReader_pin (s : State) : (stopReader s).pin = { s.pin with rd := false } := rfl
@[simp] theorem appendBit_wc (b : Bool) (s : State) : (appendBit b s).wc = s.wc.append s.params b := rfl
@[simp] theorem sampleHead_pin (sample : BitVec 4) (s : State) :
    (sampleHead sample s).pin = { s.pin with phase := sample } := by unfold sampleHead; split <;> rfl
theorem sampleHead_head_some {sample : BitVec 4} {ofs : Fin 4} (h : oneHot sample = some ofs) (s : State) :
    (sampleHead sample s).head = s.head.move ofs := by unfold sampleHead; rw [h]
theorem sampleHead_head_none {sample : BitVec 4} (h : oneHot sample = none) (s : State) :
    (sampleHead sample s).head = s.head := by unfold sampleHead; rw [h]
theorem restoreReader_rd_valid (s : State) {t : Nat} (h : s.cache.track = some t) :
    (restoreReader s).rd = { run := true, buf := s.cache.data, filled := true, byte := 0, bit := 0 } := by
  simp [restoreReader, refresh, h]
theorem restoreReader_rd_invalid (s : State) (h : s.cache.track = none) :
    (restoreReader s).rd = { s.rd with byte := 0, bit := 0 } := by simp [restoreReader, refresh, h]

/-! ### Address spaces -/

@[simp] theorem memory_img (s : State) : s.memory .img = s.img := rfl
@[simp] theorem memory_enc (s : State) : s.memory .enc = s.cache.data := rfl
@[simp] theorem memory_rdbuf (s : State) : s.memory .rdbuf = s.rd.buf := rfl
@[simp] theorem memory_cap (s : State) : s.memory .cap = s.wc.buf := rfl
@[simp] theorem setMemory_img (s : State) (m : Memory) : s.setMemory m .img = { s with img := m } := rfl
@[simp] theorem setMemory_enc (s : State) (m : Memory) :
    s.setMemory m .enc = { s with cache := { s.cache with data := m } } := rfl
@[simp] theorem setMemory_rdbuf (s : State) (m : Memory) :
    s.setMemory m .rdbuf = { s with rd := { s.rd with buf := m } } := rfl
@[simp] theorem setMemory_cap (s : State) (m : Memory) :
    s.setMemory m .cap = { s with wc := { s.wc with buf := m } } := rfl
@[simp] theorem size_img : Space.img.size = 143360 := rfl
@[simp] theorem size_enc : Space.enc.size = 6656 := rfl
@[simp] theorem size_rdbuf : Space.rdbuf.size = 6656 := rfl
@[simp] theorem size_cap : Space.cap.size = 350 := rfl

end Sys2Proof.Machine
end

