-- ==== Sys2Proof/Laws/Ops.lean ====
section
/-! SUPPORT. For each shared operation one lemma that says everything it can do when it answers a next state, and how outcomes compose. -/

namespace Sys2Proof.Machine

/-! ### Outcomes -/

@[simp] theorem andThen_next (s : State) (f : State → Out) : andThen (.next s) f = f s := rfl
@[simp] theorem andThen_fault (r : Fault) (f : State → Out) : andThen (.fault r) f = .fault r := rfl
@[simp] theorem andThen_refused (r : Refusal) (f : State → Out) : andThen (.refused r) f = .refused r := rfl

theorem andThen_eq_next {o : Out} {f : State → Out} {t : State} :
    andThen o f = .next t ↔ ∃ s, o = .next s ∧ f s = .next t := by
  cases o <;> simp [andThen]

theorem andThen_eq_fault {o : Out} {f : State → Out} {r : Fault} :
    andThen o f = .fault r ↔ o = .fault r ∨ ∃ s, o = .next s ∧ f s = .fault r := by
  cases o <;> simp [andThen]

theorem andThen_eq_refused {o : Out} {f : State → Out} {r : Refusal} :
    andThen o f = .refused r ↔ o = .refused r ∨ ∃ s, o = .next s ∧ f s = .refused r := by
  cases o <;> simp [andThen]

theorem answer_eq_next {a : Answer} {s t : State} : answer a s = .next t ↔ t = { s with answer := a } := by
  simp [answer, eq_comm]

/-! ### Address spaces -/

theorem readBlock_eq_next {s : State} {sp : Space} {a n : Nat} {k : List Byte → Out} {t : State} :
    readBlock s sp a n k = .next t ↔
      s.holdsValue sp = true ∧ a + n ≤ sp.size ∧ k ((s.memory sp).block a n) = .next t := by
  unfold readBlock
  split
  · simp_all
  · split <;> simp_all

theorem writeBlock_eq_next {s : State} {sp : Space} {a : Nat} {bytes : List Byte} {t : State} :
    writeBlock s sp a bytes = .next t ↔
      a + bytes.length ≤ sp.size ∧ t = s.setMemory ((s.memory sp).writeList a bytes) sp := by
  unfold writeBlock
  split <;> simp_all [eq_comm]

/-! ### Tracker -/

theorem oneHot_sampleOf (k : Fin 4) : oneHot (sampleOf k) = some k := by revert k; decide

theorem oneHot_eq_some {sample : BitVec 4} {k : Fin 4} : oneHot sample = some k ↔ sample = sampleOf k := by
  revert sample k; decide

theorem move_log (h : Head) (ofs : Fin 4) : (h.move ofs).log = (h.move ofs).phys >>> 1 := rfl

/-! ### Reader -/

theorem startReader_eq_next {s t : State} (h : startReader s = .next t) :
    (s.rd.run = false ∧ s.wc.state = .idle ∧ s.cache.track.isSome = true ∧
      t = { s with rd := { run := true, buf := s.cache.data, filled := true, byte := 0, bit := 0 }, answer := .ok }) ∨
    (¬(s.rd.run = false ∧ s.wc.state = .idle) ∧ t = { s with answer := .ok }) := by
  unfold startReader at h
  split at h
  · rename_i hg
    split at h
    · exact .inl ⟨hg.1, hg.2, by assumption, answer_eq_next.1 h⟩
    · cases h
  · exact .inr ⟨by assumption, answer_eq_next.1 h⟩

/-! ### Capture engine -/

theorem completionOutcome_eq_none {len : Nat} {captured : List Byte} {known : Bool} {track : Option Nat} :
    completionOutcome len captured known track = none ↔
      3 ≤ len ∧ captured.take 3 = dataPrologue ∧ known = true ∧ track.isSome = true := by
  unfold completionOutcome
  repeat' split
  all_goals (cases track <;> simp_all)

theorem completeField_eq_next {s t : State} (h : completeField s = .next t) :
    (∃ e, completionOutcome s.wc.len (s.wc.buf.block 0 s.wc.len) s.wc.known s.cache.track = some e ∧
      t = { s with answer := .error e }) ∨
    (completionOutcome s.wc.len (s.wc.buf.block 0 s.wc.len) s.wc.known s.cache.track = none ∧
      fieldAddr s.wc.phys + min s.wc.len 349 ≤ 6656 ∧
      t = { s with
            cache :=
              { s.cache with
                data := s.cache.data.writeList (fieldAddr s.wc.phys) (s.wc.buf.block 0 (min s.wc.len 349))
                dirty := true }
            answer := .ok }) := by
  unfold completeField at h
  split at h
  · rename_i e he
    exact .inl ⟨e, he, answer_eq_next.1 h⟩
  · rename_i he
    obtain ⟨u, hu, ht⟩ := andThen_eq_next.1 h
    obtain ⟨hb, rfl⟩ := writeBlock_eq_next.1 hu
    rw [Memory.block_length, size_enc] at hb
    exact .inr ⟨he, hb, answer_eq_next.1 ht⟩

/-! ### Track cache -/

theorem reconcile_eq_next {s t : State} (h : reconcile s = .next t) :
    ∃ T, s.cache.track = some T ∧ s.imgLoaded = true ∧ T ≤ 34 ∧
      t = { notifySave T { s with img := reconcileImage s.params s.cache.data T s.img } with answer := .ok } := by
  unfold reconcile at h
  split at h
  · cases h
  · rename_i T hT
    split at h
    · cases h
    · split at h
      · rename_i hl hs
        refine ⟨T, hT, by simpa using hl, ?_, answer_eq_next.1 h⟩
        simp only [sectorAddr, size_img] at hs
        omega
      · cases h

theorem rebuild_eq_next {T : Nat} {s t : State} (h : rebuild T s = .next t) :
    s.imgLoaded = true ∧ T ≤ 34 ∧
      t = { s with
            cache := { s.cache with data := Memory.ofBytes 0 (trkEnc s.params s.img T), track := some T }
            answer := .ok } := by
  unfold rebuild at h
  split at h
  · cases h
  · split at h
    · rename_i hl hs
      refine ⟨by simpa using hl, ?_, answer_eq_next.1 h⟩
      simp only [sectorAddr, size_img] at hs
      omega
    · cases h

theorem changeTrack_eq_next {T : Nat} {s t : State} (h : changeTrack T s = .next t) :
    ∃ u v, (if s.cache.dirty then reconcile s else .next s) = .next u ∧ rebuild T u = .next v ∧
      startReader { v with cache := { v.cache with dirty := false } } = .next t := by
  obtain ⟨u, hu, h⟩ := andThen_eq_next.1 h
  obtain ⟨v, hv, h⟩ := andThen_eq_next.1 h
  exact ⟨u, v, hu, hv, h⟩

theorem select_eq_next {T : Nat} {s t : State} (h : select T s = .next t) :
    s.wc.state = .idle ∧
    ((34 < T ∧ t = { s with answer := .error .range }) ∨
     (T ≤ 34 ∧ s.cache.track = some T ∧ t = { s with answer := .ok }) ∨
     (T ≤ 34 ∧ s.cache.track ≠ some T ∧ changeTrack T s = .next t)) := by
  unfold select at h
  split at h
  · cases h
  · rename_i hi
    refine ⟨by simpa [Capture.armed] using hi, ?_⟩
    split at h
    · exact .inl ⟨by assumption, answer_eq_next.1 h⟩
    · split at h
      · exact .inr (.inl ⟨by omega, by assumption, answer_eq_next.1 h⟩)
      · exact .inr (.inr ⟨by omega, by assumption, h⟩)

/-! ### The step -/

theorem step_idle {s : State} (h : s.pending = []) : step s = .next s := by simp [step, h]

theorem step_eq {s : State} (h : s.pending ≠ []) : step s = stepNext s := by
  unfold step
  split
  · contradiction
  · rfl

end Sys2Proof.Machine
end

