-- ==== Sys2Proof/Laws/PerInstr.lean ====
section
/-! SUPPORT. Statements about every operation as syntax, one lemma for each constructor. -/

namespace Sys2Proof.Laws

/-- The ids R81 lists. -/
def assignedIds : List Nat :=
  [0x00, 0x01, 0x02, 0x03, 0x04, 0x05, 0x06, 0x07, 0x10, 0x11, 0x12, 0x13, 0x18, 0x19, 0x1A, 0x20, 0x21, 0x30, 0x31, 0x32,
   0x33, 0x34, 0x40, 0x41, 0x42, 0x43, 0x44, 0x45, 0x50, 0x51, 0x52, 0x60, 0x61, 0x68, 0x69, 0x6A, 0x6B, 0x70]

end Sys2Proof.Laws

namespace Sys2Proof.Laws.EncodingBegins

/-- The encoding of an operation begins with its id, an id that R81 lists (R80, R81). -/
def Statement (i : Instr) : Prop :=
  (encode i).head? = some i.id ∧ i.id.toNat ∈ Laws.assignedIds

theorem nibEnc (c : Byte) : Statement (.nibEnc c) := ⟨rfl, by simp [Instr.id, Laws.assignedIds]⟩
theorem nibDec (b : Byte) : Statement (.nibDec b) := ⟨rfl, by simp [Instr.id, Laws.assignedIds]⟩
theorem n44Enc (v : Byte) : Statement (.n44Enc v) := ⟨rfl, by simp [Instr.id, Laws.assignedIds]⟩
theorem n44Dec (b0 b1 : Byte) : Statement (.n44Dec b0 b1) := ⟨rfl, by simp [Instr.id, Laws.assignedIds]⟩
theorem pairEnc (a0 a1 a2 : Crumb) : Statement (.pairEnc a0 a1 a2) := ⟨rfl, by simp [Instr.id, Laws.assignedIds]⟩
theorem pairDec (x : Code) : Statement (.pairDec x) := ⟨rfl, by simp [Instr.id, Laws.assignedIds]⟩
theorem ilvP2l (p : BitVec 4) : Statement (.ilvP2l p) := ⟨rfl, by simp [Instr.id, Laws.assignedIds]⟩
theorem ilvL2p (l : BitVec 4) : Statement (.ilvL2p l) := ⟨rfl, by simp [Instr.id, Laws.assignedIds]⟩
theorem nicEnc (raw : List Byte) : Statement (.nicEnc raw) := ⟨rfl, by simp [Instr.id, Laws.assignedIds]⟩
theorem addrEnc (vol trk sec : Byte) : Statement (.addrEnc vol trk sec) := ⟨rfl, by simp [Instr.id, Laws.assignedIds]⟩
theorem secEnc (T : Nat) (p : BitVec 4) (raw : List Byte) : Statement (.secEnc T p raw) := ⟨rfl, by simp [Instr.id, Laws.assignedIds]⟩
theorem trkEnc (img : List Byte) (T : Nat) : Statement (.trkEnc img T) := ⟨rfl, by simp [Instr.id, Laws.assignedIds]⟩
theorem nicDec (enc : List Byte) : Statement (.nicDec enc) := ⟨rfl, by simp [Instr.id, Laws.assignedIds]⟩
theorem addrDec (f : List Byte) : Statement (.addrDec f) := ⟨rfl, by simp [Instr.id, Laws.assignedIds]⟩
theorem fieldDec (d : List Byte) : Statement (.fieldDec d) := ⟨rfl, by simp [Instr.id, Laws.assignedIds]⟩
theorem stpSample (sample : BitVec 4) : Statement (.stpSample sample) := ⟨rfl, by simp [Instr.id, Laws.assignedIds]⟩
theorem stpForce (T : Nat) (sample : BitVec 4) : Statement (.stpForce T sample) := ⟨rfl, by simp [Instr.id, Laws.assignedIds]⟩
theorem rdClk : Statement (.rdClk) := ⟨rfl, by simp [Instr.id, Laws.assignedIds]⟩
theorem rdStop : Statement (.rdStop) := ⟨rfl, by simp [Instr.id, Laws.assignedIds]⟩
theorem rdRestore : Statement (.rdRestore) := ⟨rfl, by simp [Instr.id, Laws.assignedIds]⟩
theorem rdStart : Statement (.rdStart) := ⟨rfl, by simp [Instr.id, Laws.assignedIds]⟩
theorem evSel (level : Bool) : Statement (.evSel level) := ⟨rfl, by simp [Instr.id, Laws.assignedIds]⟩
theorem wcEnter : Statement (.wcEnter) := ⟨rfl, by simp [Instr.id, Laws.assignedIds]⟩
theorem wcEdge : Statement (.wcEdge) := ⟨rfl, by simp [Instr.id, Laws.assignedIds]⟩
theorem wcTick : Statement (.wcTick) := ⟨rfl, by simp [Instr.id, Laws.assignedIds]⟩
theorem wcExit : Statement (.wcExit) := ⟨rfl, by simp [Instr.id, Laws.assignedIds]⟩
theorem wcAppend (b : Bool) : Statement (.wcAppend b) := ⟨rfl, by simp [Instr.id, Laws.assignedIds]⟩
theorem wcComplete : Statement (.wcComplete) := ⟨rfl, by simp [Instr.id, Laws.assignedIds]⟩
theorem tcSelect (T : Nat) : Statement (.tcSelect T) := ⟨rfl, by simp [Instr.id, Laws.assignedIds]⟩
theorem tcReconcile : Statement (.tcReconcile) := ⟨rfl, by simp [Instr.id, Laws.assignedIds]⟩
theorem tcRebuild (T : Nat) : Statement (.tcRebuild T) := ⟨rfl, by simp [Instr.id, Laws.assignedIds]⟩
theorem facTick (sample : BitVec 4) : Statement (.facTick sample) := ⟨rfl, by simp [Instr.id, Laws.assignedIds]⟩
theorem facLoad (bytes : List Byte) : Statement (.facLoad bytes) := ⟨rfl, by simp [Instr.id, Laws.assignedIds]⟩
theorem dbgRdsec (t sec : Nat) : Statement (.dbgRdsec t sec) := ⟨rfl, by simp [Instr.id, Laws.assignedIds]⟩
theorem dbgWrsec (t sec : Nat) (data : List Byte) : Statement (.dbgWrsec t sec data) := ⟨rfl, by simp [Instr.id, Laws.assignedIds]⟩
theorem dbgSettrk (T : Nat) (sample : BitVec 4) : Statement (.dbgSettrk T sample) := ⟨rfl, by simp [Instr.id, Laws.assignedIds]⟩
theorem dbgDump : Statement (.dbgDump) := ⟨rfl, by simp [Instr.id, Laws.assignedIds]⟩
theorem reset : Statement (.reset) := ⟨rfl, by simp [Instr.id, Laws.assignedIds]⟩

end Sys2Proof.Laws.EncodingBegins
end

