-- ==== Sys2Proof/Tests/Slice0.lean ====
section
/-! SUPPORT. Tests: ill-formed operations, words written out from the table of R81, vectors of spec/95_test_vectors.md, and a state for the hypotheses of every statement. Expected values come from the spec. -/

namespace Sys2Proof.Tests

open Sys2Proof.Machine

/-! ### States to test on -/

/-- The defaults of R7, with SKIP_ORIGIN = SYNC and SKIP_PRELOAD = 8. -/
def P : Params := Config.defaults .sync .eight

/-- The state after reset with RESET_LASTPHASE = 2 (P1, step 1). -/
def base : State := { State.afterReset P Pins.reset 0 [] [] with head := Head.reset 0 2 }

/-- A loaded image of zeros. -/
def loaded : State := { base with imgLoaded := true }

/-- A cache of track `t` that holds `data`. -/
def cachedWith (t : Nat) (data : Memory) : State :=
  { loaded with cache := { data := data, track := some t, dirty := false } }

/-- A reader that runs at bit `bit` of byte `byte` of the snapshot `buf`. -/
def reading (buf : Memory) (byte bit : Nat) : State :=
  { cachedWith 0 buf with rd := { run := true, buf := buf, filled := true, byte := byte, bit := bit } }

/-- A capture in Sampling of slot 3, with `bytes` in the buffer. -/
def sampling (bytes : List Byte) : State :=
  { cachedWith 0 [] with
    pin := { Pins.reset with weN := false }
    wc := { Capture.reset with
            state := .sampling, known := true, phys := 3, log := 6, timer := true, synced := !bytes.isEmpty,
            buf := Memory.ofBytes 0 bytes, len := bytes.length } }

/-- The state an outcome answers. -/
def next? : Out → Option State
  | .next t => some t
  | _ => none

/-- The refusal an outcome answers. -/
def refusal? : Out → Option Refusal
  | .refused r => some r
  | _ => none

/-- The answer of an operation on a state. -/
def answerOf (i : Instr) (s : State) : Option Answer := (next? (exec i s)).map fun t => t.answer

/-- A field of the state after an operation. -/
def after {α : Type} (i : Instr) (s : State) (f : State → α) : Option α := (next? (exec i s)).map f

/-- The bytes an operation answers. -/
def bytesOf (i : Instr) (s : State) : List Byte :=
  match answerOf i s with
  | some (.bytes l) => l
  | _ => []

/-! ### Ill-formed operations are refused by WellFormed -/

theorem test_ill_formed_codec :
    (Instr.nicEnc (List.replicate 255 0x00#8)).wellFormed = false ∧
    (Instr.secEnc 35 0#4 (List.replicate 256 0x00#8)).wellFormed = false ∧
    (Instr.secEnc 34 0#4 (List.replicate 257 0x00#8)).wellFormed = false ∧
    (Instr.trkEnc [] 35).wellFormed = false ∧
    (Instr.nicDec (List.replicate 342 0x96#8)).wellFormed = false ∧
    (Instr.addrDec (List.replicate 13 0x00#8)).wellFormed = false ∧
    (Instr.fieldDec (List.replicate 345 0x00#8)).wellFormed = false := by decide +kernel

theorem test_ill_formed_image : (Instr.trkEnc (List.replicate 143361 0x00#8) 0).wellFormed = false := by
  rw [Instr.wellFormed, List.length_replicate]
  rfl

theorem test_ill_formed_commands :
    (Instr.stpForce 35 1#4).wellFormed = false ∧ (Instr.tcSelect 256).wellFormed = false ∧
    (Instr.tcRebuild 35).wellFormed = false ∧ (Instr.dbgRdsec 256 0).wellFormed = false ∧
    (Instr.dbgRdsec 0 256).wellFormed = false ∧ (Instr.dbgWrsec 256 0 (List.replicate 256 0x00#8)).wellFormed = false ∧
    (Instr.dbgWrsec 0 256 (List.replicate 256 0x00#8)).wellFormed = false ∧
    (Instr.dbgWrsec 0 0 (List.replicate 255 0x00#8)).wellFormed = false ∧
    (Instr.dbgSettrk 256 1#4).wellFormed = false := by decide +kernel

/-! ### Decoding words written out from R81 -/

theorem test_decode_codec_tables :
    decode [0x00#8, 0x3F#8] = .ok (.nibEnc 0x3F#8, []) ∧ decode [0x01#8, 0xD5#8] = .ok (.nibDec 0xD5#8, []) ∧
    decode [0x02#8, 0xFE#8] = .ok (.n44Enc 0xFE#8, []) ∧
    decode [0x03#8, 0xFA#8, 0xEA#8] = .ok (.n44Dec 0xFA#8 0xEA#8, []) ∧
    decode [0x04#8, 0x01#8, 0x02#8, 0x03#8] = .ok (.pairEnc 1#2 2#2 3#2, []) ∧
    decode [0x05#8, 0x36#8] = .ok (.pairDec 0x36#6, []) ∧ decode [0x06#8, 0x0F#8] = .ok (.ilvP2l 15#4, []) ∧
    decode [0x07#8, 0x0D#8] = .ok (.ilvL2p 13#4, []) := by decide

theorem test_decode_encoders :
    decode (0x10#8 :: List.replicate 256 0x07#8 ++ [0x99#8]) = .ok (.nicEnc (List.replicate 256 0x07#8), [0x99#8]) ∧
    decode [0x11#8, 0xFE#8, 0x11#8, 0x0F#8] = .ok (.addrEnc 0xFE#8 0x11#8 0x0F#8, []) ∧
    decode (0x12#8 :: 0x11#8 :: 0x0F#8 :: List.replicate 256 0x01#8)
      = .ok (.secEnc 17 15#4 (List.replicate 256 0x01#8), []) ∧
    decode [0x13#8, 0x01#8, 0xAB#8, 0x01#8, 0xCD#8, 0x00#8, 0x02#8] = .ok (.trkEnc [0xAB#8, 0xCD#8] 2, []) := by
  decide +kernel

theorem test_decode_decoders :
    decode (0x18#8 :: List.replicate 343 0x96#8 ++ [0x01#8, 0x55#8, 0x00#8])
      = .ok (.nicDec (List.replicate 343 0x96#8 ++ [0x55#8]), []) ∧
    decode (0x19#8 :: List.replicate 14 0xAA#8) = .ok (.addrDec (List.replicate 14 0xAA#8), []) ∧
    decode (0x1A#8 :: List.replicate 346 0xD5#8) = .ok (.fieldDec (List.replicate 346 0xD5#8), []) := by
  decide +kernel

theorem test_decode_stepper_and_reader :
    decode [0x20#8, 0x02#8] = .ok (.stpSample 0x2#4, []) ∧ decode [0x21#8, 0x11#8, 0x08#8] = .ok (.stpForce 17 0x8#4, []) ∧
    decode [0x30#8, 0x31#8] = .ok (.rdClk, [0x31#8]) ∧ decode [0x31#8] = .ok (.rdStop, []) ∧
    decode [0x32#8] = .ok (.rdRestore, []) ∧ decode [0x33#8] = .ok (.rdStart, []) ∧
    decode [0x34#8, 0x01#8] = .ok (.evSel true, []) := by decide

theorem test_decode_capture :
    decode [0x40#8] = .ok (.wcEnter, []) ∧ decode [0x41#8] = .ok (.wcEdge, []) ∧ decode [0x42#8] = .ok (.wcTick, []) ∧
    decode [0x43#8] = .ok (.wcExit, []) ∧ decode [0x44#8, 0x00#8] = .ok (.wcAppend false, []) ∧
    decode [0x45#8] = .ok (.wcComplete, []) := by decide

theorem test_decode_cache_and_facade :
    decode [0x50#8, 0x05#8] = .ok (.tcSelect 5, []) ∧ decode [0x51#8] = .ok (.tcReconcile, []) ∧
    decode [0x52#8, 0x22#8] = .ok (.tcRebuild 34, []) ∧ decode [0x60#8, 0x01#8] = .ok (.facTick 0x1#4, []) ∧
    decode [0x61#8, 0x01#8, 0x01#8, 0x01#8, 0x02#8, 0x01#8, 0x03#8, 0x00#8]
      = .ok (.facLoad [0x01#8, 0x02#8, 0x03#8], []) ∧
    decode [0x68#8, 0x22#8, 0x0F#8] = .ok (.dbgRdsec 34 15, []) ∧
    decode (0x69#8 :: 0x00#8 :: 0x06#8 :: List.replicate 256 0x77#8)
      = .ok (.dbgWrsec 0 6 (List.replicate 256 0x77#8), []) ∧
    decode [0x6A#8, 0x23#8, 0x01#8] = .ok (.dbgSettrk 35 0x1#4, []) ∧ decode [0x6B#8] = .ok (.dbgDump, []) ∧
    decode [0x70#8] = .ok (.reset, []) := by decide +kernel

theorem test_decode_rejects :
    decode [] = .error .empty ∧ decode [0x08#8] = .error (.unassigned 0x08#8) ∧
    decode [0x03#8, 0xAA#8] = .error .truncated ∧ decode [0x05#8, 0x40#8] = .error (.operand 0x40#8) ∧
    decode [0x21#8, 0x23#8, 0x01#8] = .error (.operand 0x23#8) ∧ decode [0x34#8, 0x02#8] = .error (.operand 0x02#8) := by
  decide

theorem test_table_words :
    decodeTableWord 8 0x41 = some .wcEdge ∧ decodeTableWord 8 0x6B = some .dbgDump ∧ decodeTableWord 8 0x0F = none := by
  decide +kernel

theorem test_step_runs_the_placed_word :
    (next? (step (base.withFetchWord 8 0x6B))).map (fun t => t.answer) = some (.dump none false none) := by
  decide +kernel

/-! ### Codec tables: V1 to V6 -/

theorem test_nib_enc :
    [0x00#8, 0x01#8, 0x0B#8, 0x27#8, 0x2E#8, 0x3F#8, 0x4B#8].map (fun c => answerOf (.nibEnc c) base)
      = [0x96#8, 0x97#8, 0xAD#8, 0xDE#8, 0xEB#8, 0xFF#8, 0xAD#8].map (fun b => some (.byte b)) := by decide +kernel

theorem test_nib_dec :
    [0x96#8, 0xFF#8, 0xAD#8, 0xEB#8, 0xD5#8, 0xAA#8, 0x98#8].map (fun b => answerOf (.nibDec b) base)
      = [some 0x00#6, some 0x3F#6, some 0x0B#6, some 0x2E#6, none, none, none].map
          (fun c => some (.codeOrInvalid c)) := by decide +kernel

theorem test_n44_enc :
    answerOf (.n44Enc 0x80#8) base = some (.pair 0xEA#8 0xAA#8) ∧
    answerOf (.n44Enc 0xFE#8) base = some (.pair 0xFF#8 0xFE#8) := by decide

theorem test_n44_dec :
    answerOf (.n44Dec 0xFA#8 0xEA#8) base = some (.byte 0xE0#8) ∧
    answerOf (.n44Dec 0xD5#8 0x96#8) base = some (.byte 0xBE#8) := by decide

theorem test_pair_enc :
    answerOf (.pairEnc 1#2 2#2 3#2) base = some (.code 0x36#6) ∧
    answerOf (.pairEnc 2#2 1#2 3#2) base = some (.code 0x39#6) := by decide

theorem test_pair_dec :
    answerOf (.pairDec 0x36#6) base = some (.crumbs 1#2 2#2 3#2) ∧
    answerOf (.pairDec 0x39#6) base = some (.crumbs 2#2 1#2 3#2) := by decide

theorem test_ilv_p2l :
    answerOf (.ilvP2l 3#4) base = some (.sector 6) ∧ answerOf (.ilvP2l 4#4) base = some (.sector 13) := by decide

theorem test_ilv_l2p :
    answerOf (.ilvL2p 13#4) base = some (.sector 4) ∧ answerOf (.ilvL2p 1#4) base = some (.sector 13) := by decide

/-! ### Track encoder and decoder: V12 to V25a, P1 -/

/-- V12: the alternating sector. -/
theorem test_nic_enc_alternating :
    ((bytesOf (.nicEnc ((List.replicate 128 [0x55#8, 0xAA#8]).flatten)) base).drop 82).take 6
      = [0xFF#8, 0xFF#8, 0xD3#8, 0xB3#8, 0xB4#8, 0xFF#8] := by decide +kernel

/-- V14: `raw[255] = FF`, the rest zero. -/
theorem test_nic_enc_last_byte :
    [0, 83, 84, 85, 341, 342].map
        (fun k => (bytesOf (.nicEnc (List.replicate 255 0x00#8 ++ [0xFF#8])) base).getD k 0x00#8)
      = [0x96#8, 0xED#8, 0xED#8, 0x96#8, 0xFF#8, 0xFF#8] := by decide +kernel

/-- V16. -/
theorem test_addr_enc :
    bytesOf (.addrEnc 0xFE#8 0x11#8 0x0F#8) base
      = [0xD5#8, 0xAA#8, 0x96#8, 0xFF#8, 0xFE#8, 0xAA#8, 0xBB#8, 0xAF#8, 0xAF#8, 0xFA#8, 0xEA#8, 0xDE#8, 0xAA#8, 0xEB#8] := by
  decide

/-- V17. -/
theorem test_sec_enc :
    let r := bytesOf (.secEnc 17 15#4 (List.replicate 256 0x00#8)) base
    r.length = 416 ∧ (r.drop 21).take 3 = [0xFF#8, 0x03#8, 0xFC#8] ∧ (r.drop 41).take 4 = [0xAF#8, 0xAF#8, 0xFA#8, 0xEA#8] ∧
    (r.drop 52).take 5 = [0xFF#8, 0xD5#8, 0xAA#8, 0xAD#8, 0x96#8] ∧
    (r.drop 398).take 5 = [0x96#8, 0xDE#8, 0xAA#8, 0xEB#8, 0xFF#8] := by decide +kernel

/-- P1, end state: slot 1 of track 0 holds logical sector 7, filled with 07. -/
theorem test_trk_enc :
    let r := bytesOf (.trkEnc (List.replicate 1792 0x00#8 ++ List.replicate 256 0x07#8) 0) base
    (r.drop 472).take 4 = [0xFF#8, 0x96#8, 0x96#8, 0x96#8] ∧ (r.drop 556).take 4 = [0xED#8, 0x96#8, 0xB2#8, 0x96#8] := by
  decide +kernel

/-- V22: `v[342] = 1` is accepted. -/
theorem test_nic_dec_ignores_the_checksum :
    let r := bytesOf (.nicDec (List.replicate 343 0x97#8)) base
    r.take 3 = [0x06#8, 0x00#8, 0x06#8] ∧ (r.drop 85).take 4 = [0x00#8, 0x04#8, 0x00#8, 0x04#8] := by decide +kernel

/-- V24: an invalid byte, and an invalid checksum byte. -/
theorem test_nic_dec_invalid :
    answerOf (.nicDec (List.replicate 100 0x96#8 ++ 0xD5#8 :: List.replicate 242 0x96#8)) base
      = some (.error (.decode 100)) ∧
    answerOf (.nicDec (List.replicate 342 0x96#8 ++ [0xAA#8])) base = some (.error (.decode 342)) := by decide +kernel

/-- V16, read back. -/
theorem test_addr_dec :
    answerOf (.addrDec [0xD5#8, 0xAA#8, 0x96#8, 0xFF#8, 0xFE#8, 0xAA#8, 0xBB#8, 0xAF#8, 0xAF#8, 0xFA#8, 0xEA#8, 0xDE#8, 0xAA#8,
        0xEB#8]) base
      = some (.address { ok := true, vol := 0xFE#8, trk := 0x11#8, sec := 0x0F#8, chk := 0xE0#8 }) := by decide

/-- V25a. -/
theorem test_field_dec :
    answerOf (.fieldDec (0xD5#8 :: 0xAA#8 :: 0xAD#8 :: List.replicate 343 0x96#8)) base
      = some (.bytes (List.replicate 256 0x00#8)) ∧
    answerOf (.fieldDec (0xD5#8 :: 0xAA#8 :: 0x96#8 :: List.replicate 343 0x96#8)) base = some (.skip .prologue) ∧
    answerOf (.fieldDec (0xD5#8 :: 0xAA#8 :: 0xAD#8 :: List.replicate 4 0x96#8 ++ 0xD5#8 :: List.replicate 338 0x96#8)) base
      = some (.skip (.decode 4)) := by decide +kernel

/-! ### Stepper: V28, V30, V33 -/

/-- `head` at `(phys, log, phase, last)`. -/
def headAt (phys log : Nat) (phase last : Fin 4) : State :=
  { base with head := { phys := phys, log := log, phase := phase, last := last } }

/-- V28 and V29: the clamps. -/
theorem test_stp_sample_clamps :
    after (.stpSample 0x8#4) (headAt 0 0 0 0) (fun t => t.head) = some { phys := 0, log := 0, phase := 3, last := 3 } ∧
    after (.stpSample 0x1#4) (headAt 69 34 3 3) (fun t => t.head) = some { phys := 69, log := 34, phase := 0, last := 0 } := by
  decide

/-- V30 and V31: a jump, a sample that is not one-hot, and 3 to 0 as a forward step. -/
theorem test_stp_sample_jump_noise_wrap :
    after (.stpSample 0x4#4) (headAt 20 10 0 0) (fun t => t.head) = some { phys := 20, log := 10, phase := 2, last := 2 } ∧
    after (.stpSample 0x3#4) (headAt 20 10 2 2) (fun t => (t.head, t.pin.phase, t.answer))
      = some ({ phys := 20, log := 10, phase := 2, last := 2 }, 0x3#4, .ignored) ∧
    after (.stpSample 0x1#4) (headAt 5 2 3 3) (fun t => t.head) = some { phys := 6, log := 3, phase := 0, last := 0 } := by
  decide

theorem test_stp_force :
    after (.stpForce 17 0x8#4) (headAt 5 2 1 1) (fun t => t.head) = some { phys := 34, log := 17, phase := 3, last := 3 } ∧
    after (.stpForce 34 0x0#4) (headAt 5 2 1 1) (fun t => t.head) = some { phys := 68, log := 34, phase := 1, last := 1 } := by
  decide

/-! ### Reader: V37, V39, R119, R121 to R123 -/

/-- Bit 7 goes out first; at the wrap the snapshot is refreshed from the cache. -/
theorem test_rd_clk_bit_and_wrap :
    after .rdClk (reading [(0, 0x96#8)] 0 0) (fun t => (t.pin.rd, t.rd.byte, t.rd.bit)) = some (true, 0, 1) ∧
    after .rdClk (reading [(0, 0x96#8)] 0 1) (fun t => (t.pin.rd, t.rd.byte, t.rd.bit)) = some (false, 0, 2) ∧
    after .rdClk { reading [] 6655 7 with cache := { data := [(3, 0x55#8)], track := some 0, dirty := true } }
      (fun t => (t.rd.buf, t.rd.byte, t.rd.bit)) = some ([(3, 0x55#8)], 0, 0) := by decide

/-- V37 and V39: deselected, the position still advances; stopped, the clock is ignored. -/
theorem test_rd_clk_gating :
    after .rdClk { reading [(0, 0xFF#8)] 0 7 with pin := { Pins.reset with selN := true } }
      (fun t => (t.pin.rd, t.rd.byte, t.rd.bit)) = some (false, 1, 0) ∧
    after .rdClk base (fun t => (t.pin.rd, t.answer)) = some (false, .ignored) := by decide

theorem test_rd_stop :
    after .rdStop { reading [] 9 3 with pin := { Pins.reset with rd := true } }
      (fun t => (t.rd.run, t.pin.rd, t.rd.byte, t.rd.bit)) = some (false, false, 9, 3) := by decide

theorem test_rd_restore :
    after .rdRestore { reading [] 1302 5 with cache := { data := [(1, 0x01#8)], track := some 0, dirty := false } }
      (fun t => (t.rd.buf, t.rd.byte, t.rd.bit, t.rd.run)) = some ([(1, 0x01#8)], 0, 0, true) ∧
    after .rdRestore base (fun t => (t.rd.run, t.rd.filled)) = some (false, false) := by decide

theorem test_rd_start :
    after .rdStart (cachedWith 0 [(1, 0x01#8)]) (fun t => (t.rd.run, t.rd.buf)) = some (true, [(1, 0x01#8)]) ∧
    after .rdStart (reading [] 9 3) (fun t => (t.rd.byte, t.rd.bit)) = some (9, 3) ∧
    refusal? (exec .rdStart base) = some (.noValue .enc) := by decide

theorem test_ev_sel :
    after (.evSel true) { reading [] 9 3 with pin := { Pins.reset with rd := true } }
      (fun t => (t.pin.selN, t.pin.rd, t.rd.byte)) = some (true, false, 9) ∧
    after (.evSel false) { reading [] 9 3 with pin := { Pins.reset with selN := true } }
      (fun t => (t.pin.selN, t.pin.rd)) = some (false, false) := by decide

/-! ### Capture: V40 to V53 -/

/-- A snapshot with one address field, of sector `v`, at byte `q`. -/
def snapshot (q : Nat) (v : Byte) : Memory := Memory.ofBytes q (addrEnc 0xFE#8 0x00#8 v)

/-- V52: `1296` finds slot 3 behind it; `33` finds slot 15 across the wrap. -/
theorem test_wc_enter_locates :
    after .wcEnter (reading (snapshot 1282 0x03#8) 1296 0) (fun t => (t.wc.known, t.wc.phys, t.wc.log, t.wc.pos))
      = some (true, 3, 6, 1296) ∧
    after .wcEnter (reading (snapshot 6274 0x0F#8) 33 0) (fun t => (t.wc.known, t.wc.phys, t.wc.log, t.wc.pos))
      = some (true, 15, 15, 33) := by decide +kernel

/-- V53 and R131: no snapshot, and a sector value of 16. -/
theorem test_wc_enter_unknown :
    after .wcEnter base (fun t => (t.wc.known, t.wc.state, t.wc.timer, t.rd.run)) = some (false, .sampling, true, false) ∧
    after .wcEnter (reading (snapshot 1282 0x10#8) 1296 0) (fun t => t.wc.known) = some false := by decide +kernel

/-- V51: selected, a transition appends a 1; deselected, it is ignored. -/
theorem test_wc_edge :
    after .wcEdge (sampling []) (fun t => (t.wc.shift, t.wc.nbits, t.pin.wd)) = some (0x01#8, 1, true) ∧
    after .wcEdge { sampling [] with pin := { Pins.reset with selN := true } } (fun t => (t.wc.nbits, t.answer))
      = some (0, .ignored) := by decide

theorem test_wc_tick :
    after .wcTick { sampling [] with wc := { (sampling []).wc with shift := 0x6A#8, nbits := 7 } }
      (fun t => (t.wc.shift, t.wc.nbits, t.wc.synced)) = some (0xD4#8, 0, false) ∧
    after .wcTick base (fun t => (t.wc.nbits, t.answer)) = some (0, .ignored) := by decide

/-- V41 and P3 step 3: the byte 0xD5 synchronizes and starts the count at 8. -/
theorem test_wc_append_synchronizes :
    after (.wcAppend true) { sampling [] with wc := { (sampling []).wc with shift := 0x6A#8, nbits := 7 } }
      (fun t => (t.wc.synced, t.wc.len, t.wc.buf, t.wc.cnt, t.wc.counting)) = some (true, 1, [(0, 0xD5#8)], 8, true) := by
  decide

/-- P3 step 4: the bit counted 25 is discarded. V48: a byte beyond 350 is dropped. -/
theorem test_wc_append_skips_and_caps :
    after (.wcAppend true)
        { sampling [0xD5#8] with wc := { (sampling [0xD5#8]).wc with cnt := 24, counting := true } }
      (fun t => (t.wc.cnt, t.wc.skipDone, t.wc.nbits, t.wc.shift)) = some (25, true, 0, 0x00#8) ∧
    after (.wcAppend true) { sampling [0xD5#8] with wc := { (sampling [0xD5#8]).wc with len := 350, nbits := 7 } }
      (fun t => (t.wc.len, t.wc.buf, t.wc.nbits)) = some (350, [(0, 0xD5#8)], 0) := by decide

/-- V49 and V50: three bytes installed at 1301, the reader restored from the old cache. -/
theorem test_wc_exit_installs :
    after .wcExit (sampling [0xD5#8, 0xAA#8, 0xAD#8])
      (fun t => (t.cache.data, t.cache.dirty, t.rd.buf))
      = some ([(1301, 0xD5#8), (1302, 0xAA#8), (1303, 0xAD#8)], true, []) ∧
    after .wcExit (sampling [0xD5#8, 0xAA#8, 0xAD#8]) (fun t => (t.rd.run, t.wc.state, t.wc.timer, t.pin.weN))
      = some (true, .idle, false, true) := by decide

/-- V46: no synchronization; the capture is dropped and the reader runs again. -/
theorem test_wc_exit_no_sync :
    after .wcExit (sampling []) (fun t => (t.cache.dirty, t.rd.run, t.wc.state, t.answer))
      = some (false, true, .idle, .error .noSync) := by decide

/-- V47: an address field is no data field. V53: an unknown sector. -/
theorem test_wc_complete_discards :
    answerOf .wcComplete (sampling [0xD5#8, 0xAA#8, 0x96#8]) = some (.error .notData) ∧
    answerOf .wcComplete
      { sampling [0xD5#8, 0xAA#8, 0xAD#8] with wc := { (sampling [0xD5#8, 0xAA#8, 0xAD#8]).wc with known := false } }
      = some (.error .noSector) := by decide

/-! ### Cache, facade, debug, reset: V54 to V58, P1 -/

/-- V55: the cached track, also when dirty; U4: refused during a capture. -/
theorem test_tc_select :
    after (.tcSelect 5) { loaded with cache := { data := [], track := some 5, dirty := true } }
      (fun t => (t.cache.dirty, t.saves.length)) = some (true, 0) ∧
    refusal? (exec (.tcSelect 5) (sampling [])) = some .duringCapture := by decide

/-- R145: slot 0 decodes to zeros, so sector 0 is cleared; the other slots hold no prologue and their sectors stay. -/
theorem test_tc_reconcile :
    after .tcReconcile
      { cachedWith 0 (Memory.ofBytes 53 (0xD5#8 :: 0xAA#8 :: 0xAD#8 :: List.replicate 343 0x96#8)) with
        img := [(5, 0x11#8), (300, 0x22#8)] }
      (fun t => (t.img, t.saves.map fun n => (n.track, n.bytes.length))) = some ([(300, 0x22#8)], [(0, 4096)]) := by
  decide +kernel

/-- R146 and V17: record 0 of the rebuilt cache. -/
theorem test_tc_rebuild :
    after (.tcRebuild 17) loaded (fun t => (t.cache.track, t.cache.data.block 34 9, t.rd.run))
      = some (some 17, [0xD5#8, 0xAA#8, 0x96#8, 0xFF#8, 0xFE#8, 0xAA#8, 0xBB#8, 0xAA#8, 0xAA#8], false) := by decide +kernel

/-- P3 step 6: during a capture the tracker moves and no track is selected. V56: the same logical track. -/
theorem test_fac_tick :
    after (.facTick 0x8#4) (sampling []) (fun t => (t.head.phys, t.cache.track)) = some (1, some 0) ∧
    after (.facTick 0x8#4) { cachedWith 1 [] with head := { phys := 2, log := 1, phase := 2, last := 2 } }
      (fun t => (t.head.phys, t.head.log, t.cache.track)) = some (3, 1, some 1) := by decide

/-- V54, with a one-hot phase reading (P1 step 2). -/
theorem test_fac_load :
    after (.facLoad [0x01#8, 0x02#8, 0x03#8])
      { cachedWith 5 [] with pin := { Pins.reset with phase := 0x1#4 } }
      (fun t => (t.img, t.cache.track, t.cache.dirty, t.head))
      = some ([(0, 0x01#8), (1, 0x02#8), (2, 0x03#8)], none, false, { phys := 0, log := 0, phase := 0, last := 0 }) := by
  decide

/-- V57: `img[143104]` is the first byte of sector 34, 15. -/
theorem test_dbg_rdsec :
    (bytesOf (.dbgRdsec 34 15) { loaded with img := [(143104, 0x5A#8)] }).take 2 = [0x5A#8, 0x00#8] ∧
    answerOf (.dbgRdsec 35 0) loaded = some (.error .range) ∧ answerOf (.dbgRdsec 0 16) loaded = some (.error .range) := by
  decide +kernel

/-- V57 and V58. -/
theorem test_dbg_wrsec :
    after (.dbgWrsec 0 6 (List.replicate 255 0x00#8 ++ [0x77#8])) loaded (fun t => t.img) = some [(1791, 0x77#8)] ∧
    answerOf (.dbgWrsec 35 0 []) loaded = some (.error .range) := by decide +kernel

theorem test_dbg_settrk :
    after (.dbgSettrk 17 0x8#4) base (fun t => (t.head, t.pin.phase))
      = some ({ phys := 34, log := 17, phase := 3, last := 3 }, 0x8#4) ∧
    answerOf (.dbgSettrk 35 0x1#4) base = some (.error .range) := by decide

/-- U28: no data while the tag is INVALID. -/
theorem test_dbg_dump :
    answerOf .dbgDump base = some (.dump none false none) ∧
    (next? (exec .dbgDump (cachedWith 3 [(6655, 0xEB#8)]))).map
      (fun t => match t.answer with
        | .dump k d (some l) => (k, d, l.length, l.getD 6655 0x00#8)
        | _ => (none, true, 0, 0x00#8)) = some (some 3, false, 6656, 0xEB#8) := by decide +kernel

/-- R176: a RESET during a capture drops it. -/
theorem test_reset :
    after .reset (sampling [0xD5#8]) (fun t => (t.wc.state, t.wc.len, t.wc.timer, t.cache.track, t.rd.run, t.head.phys))
      = some (.idle, 0, false, none, false, 0) := by decide

/-- The code column of R155. -/
theorem test_error_codes :
    [ErrorOutcome.decode 9, .prologue, .noSync, .noSector, .notData, .storage, .range].map errorCode
      = [1, 2, 3, 4, 5, 6, 7] := rfl

/-- A list in which no three neighbours are D5 AA 96 holds no address prologue. -/
theorem not_holdsAddressPrologue {l : List Byte} (h : ∀ k, k < l.length → (l.drop k).take 3 ≠ addressPrologue) :
    ¬holdsAddressPrologue l := fun ⟨k, hk⟩ => by
  by_cases hl : k < l.length
  · exact h k hl hk
  · rw [List.drop_eq_nil_of_le (Nat.le_of_not_lt hl)] at hk
    cases hk

/-- An encoded track read from its memory. -/
theorem read_track (Q : Params) (img : Memory) (T : Nat) {a : Nat} (ha : a < 6656) :
    (Memory.ofBytes 0 (trkEnc Q img T)).read a = (trkEnc Q img T).getD a 0x00#8 := by
  rw [Memory.read_ofBytes, if_pos ⟨Nat.zero_le _, by rwa [Nat.zero_add, trkEnc_length]⟩, Nat.sub_zero]

/-! ### A state and operands for the hypotheses of every statement of Certificates/Slice0/Obligations.lean -/

theorem witness_admissible : P.Admissible ∧ base.params = P := ⟨by decide +kernel, rfl⟩

theorem witness_DecodeEncodeRoundTrip :
    (Instr.dbgWrsec 255 255 (List.replicate 256 0x00#8)).wellFormed = true ∧
    (Instr.nicDec (List.replicate 343 0x96#8)).wellFormed = true ∧ (Instr.trkEnc [] 34).wellFormed = true := by
  decide +kernel

theorem witness_DecodeReadsOnlyEncodings :
    decode [0x6A#8, 0xFF#8, 0x0F#8, 0x30#8] = .ok (.dbgSettrk 255 0xF#4, [0x30#8]) := by decide

theorem witness_UnassignedIdsAreRefused :
    ({ base with pending := [0x08#8, 0x30#8] } : State).pending = 0x08#8 :: [0x30#8] ∧
    (0x08#8).toNat ∉ [0x00, 0x01, 0x02, 0x03, 0x04, 0x05, 0x06, 0x07, 0x10, 0x11, 0x12, 0x13, 0x18, 0x19, 0x1A, 0x20, 0x21,
      0x30, 0x31, 0x32, 0x33, 0x34, 0x40, 0x41, 0x42, 0x43, 0x44, 0x45, 0x50, 0x51, 0x52, 0x60, 0x61, 0x68, 0x69, 0x6A,
      0x6B, 0x70] := by decide

theorem witness_StepRunsTheDecodedOperation :
    decode ({ base with pending := [0x30#8, 0x31#8] } : State).pending = .ok (.rdClk, [0x31#8]) ∧ base.pending = [] := by
  decide

/-- Also for the hypothesis of NibOperationsReadTheCodeTable and of InterleaveIsABijection, with `witness_admissible`. -/
theorem witness_CodeTableLaw : P.nib.toList.Nodup ∧ nibDec P 0xFF#8 = some 0x3F#6 := by decide +kernel

theorem witness_N44DecTakesEvenBitsOfBothBytes :
    exec (.n44Enc 0xFE#8) base = .next { base with answer := .pair 0xFF#8 0xFE#8 } := rfl

theorem witness_PairOperationsUseTheThreeTables :
    P.Admissible ∧ exec (.pairEnc 1#2 2#2 3#2) base = .next { base with answer := .code 0x36#6 } :=
  ⟨witness_admissible.1, rfl⟩

theorem witness_InterleaveIsABijection : base.params.Admissible := witness_admissible.1

/-- Also for SectorCodecRoundTrip, with `witness_admissible`. -/
theorem witness_NicEncPayloadFormula : (List.replicate 256 0xA5#8).length = 256 := List.length_replicate

theorem witness_NicDecUndoesTheRunningXor :
    base.params.Admissible ∧ 343 ≤ (List.replicate 343 0x96#8).length ∧
    (∀ k, k < 343 → base.params.nib[((fun _ : Nat => 0#6) k).toNat]? = (List.replicate 343 0x96#8)[k]?) ∧
    (∀ k, (fun _ : Nat => 0#6) (k + 1) = (fun _ : Nat => 0#6) (k + 1) ^^^ (fun _ : Nat => 0#6) k) := by
  refine ⟨witness_admissible.1, List.length_replicate.ge, fun k hk => ?_, fun _ => (BitVec.xor_self).symm⟩
  rw [List.getElem?_replicate, if_pos hk]
  rfl

theorem witness_NicDecReportsTheFirstInvalidByte :
    342 < 343 ∧ (List.replicate 342 0x96#8 ++ [0xAA#8])[342]? = some 0xAA#8 ∧ 0xAA#8 ∉ base.params.nib.toList ∧
    (∀ j, j < 342 → ∀ a, (List.replicate 342 0x96#8 ++ [0xAA#8])[j]? = some a → a ∈ base.params.nib.toList) := by
  refine ⟨by decide, ?_, by decide, fun j hj a h => ?_⟩
  · rw [List.getElem?_append_right List.length_replicate.le, List.length_replicate]
    rfl
  · rw [List.getElem?_append_left (by rwa [List.length_replicate]), List.getElem?_replicate, if_pos hj] at h
    cases h
    decide

theorem witness_SectorCodecRoundTrip : base.params.Admissible ∧ (List.replicate 256 0xA5#8).length = 256 :=
  ⟨witness_admissible.1, List.length_replicate⟩

theorem witness_SecEncRecordLayout : 34 ≤ 34 ∧ (List.replicate 256 0xA5#8).length = 256 :=
  ⟨Nat.le_refl _, List.length_replicate⟩

theorem witness_TrkEncSixteenRecords :
    ([] : List Byte).length ≤ 143360 ∧ 34 ≤ 34 ∧ base.params.p2l[(15#4).toNat]? = some 15 := by decide

theorem witness_FieldDecOutcomes :
    (List.replicate 343 0x96#8).length = 343 ∧ ¬(0xD5#8 = 0xD5#8 ∧ 0xAA#8 = 0xAA#8 ∧ 0x96#8 = 0xAD#8) ∧
    base.params.Admissible ∧ (List.replicate 256 0xA5#8).length = 256 :=
  ⟨List.length_replicate, by decide, witness_admissible.1, List.length_replicate⟩

/-- `head.last = 2`: the four cases of a one-hot sample, and a sample that is not one-hot. -/
theorem witness_StpSampleTransition :
    ((0x3#4 : BitVec 4) ≠ 0x1#4 ∧ (0x3#4 : BitVec 4) ≠ 0x2#4 ∧ (0x3#4 : BitVec 4) ≠ 0x4#4 ∧ (0x3#4 : BitVec 4) ≠ 0x8#4) ∧
    (2 : Fin 4) = base.head.last ∧ (3 : Fin 4).val = (base.head.last.val + 1) % 4 ∧
    (1 : Fin 4).val = (base.head.last.val + 3) % 4 ∧ (0 : Fin 4).val = (base.head.last.val + 2) % 4 := by decide

theorem witness_TrackerLaw : (headAt 69 34 3 3).head.phys ≤ 69 ∧ (headAt 0 0 0 0).head.phys ≤ 69 := by decide

theorem witness_StpForceAndSettrkForceTheHead :
    34 ≤ 34 ∧ 34 < 35 ∧ (0x8#4 : BitVec 4) = BitVec.ofNat 4 (2 ^ (3 : Fin 4).val) ∧
    (∀ ofs : Fin 4, (0x3#4 : BitVec 4) ≠ BitVec.ofNat 4 (2 ^ ofs.val)) ∧ base.wc.state = .idle ∧
    (sampling []).wc.state ≠ .idle := by decide

theorem witness_RdClkOneBitCell :
    base.rd.run = false ∧ (reading [] 6655 7).rd.run = true ∧ (reading [] 6655 7).rd.filled = true ∧
    (reading [] 6655 7).rd.byte < 6656 ∧ (reading [] 6655 7).rd.bit < 8 := by decide

theorem witness_ReaderStopRestoreStart :
    (cachedWith 0 []).cache.track ≠ none ∧ (cachedWith 0 []).rd.run = false ∧ (cachedWith 0 []).wc.state = .idle ∧
    base.cache.track = none ∧ base.rd.run = false ∧ base.wc.state = .idle ∧
    ¬((reading [] 0 0).rd.run = false ∧ (reading [] 0 0).wc.state = .idle) := by decide

/-- The three clauses: a valid cache with the reader stopped; a run with other operations between two clocks, one of them
a capture event out of place and one a step of the head; a run of clocks alone. -/
theorem witness_ReaderPeriodicity :
    let s := reading [(0, 0x96#8)] 0 0
    let ops : List Instr := [.rdClk, .wcEdge, .stpSample 0x8#4, .evSel false, .rdClk]
    ((cachedWith 0 []).cache.track ≠ none ∧ (cachedWith 0 []).rd.run = false ∧ (cachedWith 0 []).wc.state = .idle) ∧
    s.StreamAt 0 ∧ s.pin.selN = false ∧ SteadyStream ops s ∧ (runBits ops s).map (fun r => r.1) = some [true, false] := by
  refine ⟨by decide, by decide, by decide, ?_, by decide⟩
  refine ⟨rfl, by decide, fun t h => ⟨?_, ?_⟩⟩ <;> cases h
  · rfl
  refine ⟨rfl, by decide, fun t h => ⟨?_, ?_⟩⟩ <;> cases h
  · rfl
  refine ⟨rfl, by decide, fun t h => ⟨?_, ?_⟩⟩ <;> cases h
  · rfl
  refine ⟨rfl, by decide, fun t h => ⟨?_, ?_⟩⟩ <;> cases h
  · rfl
  refine ⟨rfl, by decide, fun t h => ⟨?_, ?_⟩⟩ <;> cases h
  · rfl
  trivial

/-- The last bit of a revolution, the next clock wrapping; and a step that is no clock. -/
theorem witness_EveryStepKeepsTheStream :
    let s : State := { reading [(0, 0x96#8)] 6655 7 with pending := [0x30#8] }
    let u : State := { reading [(0, 0x96#8)] 6655 7 with pending := [0x41#8] }
    (s.StreamAt 53247 ∧ decode s.pending = .ok (.rdClk, []) ∧ ¬breaksStream .rdClk s ∧
      ∃ t, step s = .next t ∧ t.cache.data = s.cache.data) ∧
    (u.StreamAt 53247 ∧ decode u.pending = .ok (.wcEdge, []) ∧ ¬breaksStream .wcEdge u ∧
      ∃ t, step u = .next t ∧ t.cache.data = u.cache.data) :=
  ⟨⟨by decide, by decide, by decide, _, rfl, rfl⟩, ⟨by decide, by decide, by decide, _, rfl, rfl⟩⟩

theorem witness_WcEnterEffect : base.wc.state = .idle := rfl

/-- The farthest candidate, `k = 449`, with the sector values 15 and 16; no prologue at all; no snapshot. -/
theorem witness_WcEnterLocatesTheSector :
    (∃ t, exec .wcEnter (reading (snapshot 0 0x0F#8) 449 0) = .next t) ∧
    (prologueStandsAt (snapshot 0 0x0F#8) ((449 + 6656 - 449) % 6656) ∧
      ∀ j, j < 449 → ¬prologueStandsAt (snapshot 0 0x0F#8) ((449 + 6656 - j) % 6656)) ∧
    n44Dec ((snapshot 0 0x0F#8).read ((449 + 6656 - 449 + 7) % 6656))
      ((snapshot 0 0x0F#8).read ((449 + 6656 - 449 + 8) % 6656)) = 0x0F#8 ∧
    n44Dec ((snapshot 0 0x10#8).read ((449 + 6656 - 449 + 7) % 6656))
      ((snapshot 0 0x10#8).read ((449 + 6656 - 449 + 8) % 6656)) = 0x10#8 ∧
    (∀ k, k < 450 → ¬prologueStandsAt [] ((449 + 6656 - k) % 6656)) ∧
    (reading [] 449 0).rd.filled = true ∧ base.rd.filled = false ∧ (reading [] 449 0).wc.state = .idle := by
  refine ⟨⟨_, rfl⟩, ?_⟩
  simp only [prologueStandsAt]
  decide +kernel

/-- The default tables, and a snapshot of track 34 of a zero image as it was built, the offset before the first
prologue. -/
theorem witness_ScanFindsTheNearestSlot :
    let s := reading (Memory.ofBytes 0 (trkEnc P [] 34)) 33 0
    0xD5#8 ∉ s.params.nib.toList ∧ ¬holdsAddressPrologue s.params.selfSync.toList ∧
    ¬holdsAddressPrologue s.params.dataEpilogue.toList ∧ 34 ≤ 34 ∧
    trackWithOtherFields s.rd.buf (trkEnc s.params [] 34) ∧ s.rd.filled = true ∧ s.wc.state = .idle ∧ s.rd.byte < 6656 := by
  refine ⟨by decide, ?_, ?_, Nat.le_refl _, ?_, rfl, rfl, by decide⟩
  · exact not_holdsAddressPrologue (by decide)
  · exact not_holdsAddressPrologue (by decide)
  · exact fun p hp => ⟨fun k hk _ => read_track P [] 34 (by omega), .inl fun k _ hk => read_track P [] 34 (by omega)⟩

/-- Slot 0's data field replaced by 349 bytes none of which is 0xD5. -/
theorem slot0_replaced (fs : List Byte) (hn : fs.length = 349) (hd : ∀ k, k < 349 → fs.getD k 0x00#8 ≠ 0xD5#8) :
    trackWithOtherFields ((Memory.ofBytes 0 (trkEnc P [] 34)).writeList 53 fs) (trkEnc P [] 34) := by
  have hw := trkEnc_wf P [] 34
  intro p hp
  refine ⟨fun k hk hf => ?_, ?_⟩
  · rw [Memory.read_writeList hw _ (by omega), if_neg (by omega)]
    exact read_track P [] 34 (by omega)
  · by_cases h0 : p = 0
    · refine .inr fun k h1 h2 => ?_
      rw [Memory.read_writeList hw _ (by omega), if_pos (by omega)]
      exact hd _ (by omega)
    · refine .inl fun k h1 h2 => ?_
      rw [Memory.read_writeList hw _ (by omega), if_neg (by omega)]
      exact read_track P [] 34 (by omega)

theorem witness_ScanFindsTheNearestSlot_replaced :
    trackWithOtherFields ((Memory.ofBytes 0 (trkEnc P [] 34)).writeList 53 (List.replicate 349 0x96#8)) (trkEnc P [] 34) :=
  slot0_replaced _ List.length_replicate fun k hk => by
    rw [List.getD_eq_getElem?_getD, List.getElem?_replicate, if_pos hk]
    decide

theorem witness_EdgeAndTickAppendOneBit :
    (sampling []).wc.state = .sampling ∧ (sampling []).pin.selN = false ∧ (sampling []).wc.timer = true ∧
    base.wc.state ≠ .sampling ∧ base.wc.timer = false := by decide

/-- The 25th counted bit; a bit before it with seven to come, and one without counting. -/
theorem witness_WcAppendShiftsOrDiscards :
    let s : State := { sampling [0xD5#8] with wc := { (sampling [0xD5#8]).wc with cnt := 24, counting := true } }
    (s.wc.counting = true ∧ s.wc.skipDone = false ∧ s.wc.cnt = 24) ∧
    ¬(base.wc.counting = true ∧ base.wc.skipDone = false ∧ base.wc.cnt = 24) ∧ base.wc.nbits < 7 := by decide

/-- The five ways a byte completes. -/
theorem witness_WcAppendCompletesAByte :
    let u : State := { sampling [] with wc := { (sampling []).wc with shift := 0x6A#8, nbits := 7 } }
    let v : State := { sampling [0xD5#8] with wc := { (sampling [0xD5#8]).wc with len := 349, nbits := 7 } }
    let w : State := { sampling [0xD5#8] with wc := { (sampling [0xD5#8]).wc with len := 350, nbits := 7 } }
    (u.params.skipOrigin = .sync ∧ ({ u with params := Config.defaults .we .zero } : State).params.skipOrigin = .we) ∧
    (u.wc.buf.wf 350 = true ∧ u.wc.nbits = 7 ∧ u.wc.counting = false ∧ u.wc.synced = false ∧
      BitVec.ofNat 8 (2 * u.wc.shift.toNat + true.toNat) = 0xD5#8 ∧
      BitVec.ofNat 8 (2 * u.wc.shift.toNat + false.toNat) ≠ 0xD5#8) ∧
    (v.wc.buf.wf 350 = true ∧ v.wc.nbits = 7 ∧ v.wc.counting = false ∧ v.wc.synced = true ∧ v.wc.len < 350) ∧
    (w.wc.buf.wf 350 = true ∧ w.wc.nbits = 7 ∧ w.wc.counting = false ∧ w.wc.synced = true ∧ 350 ≤ w.wc.len) := by
  decide

theorem witness_CaptureAppendsWholeBytes :
    let s := sampling [0xD5#8]
    s.wc.buf.wf 350 = true ∧ s.wc.state = .sampling ∧ s.wc.timer = true ∧ s.pin.selN = false ∧ s.wc.synced = true ∧
    s.wc.nbits = 0 ∧ s.wc.counting = false ∧ s.wc.len + (List.replicate 349 0x96#8).length ≤ 350 := by decide +kernel

/-- The longest field and the shortest ones of either clause, for the two values of the place of the skip. -/
theorem witness_CaptureRecoversTheWrittenField :
    base.wc.buf.wf 350 = true ∧ base.wc.state = .idle ∧ base.pin.selN = false ∧
    ((0xD5#8 :: List.replicate 349 0x96#8)[0]? = some 0xD5#8 ∧ (0xD5#8 :: List.replicate 349 0x96#8).length ≤ 350 ∧
      skipPlace P ≤ 8 * (0xD5#8 :: List.replicate 349 0x96#8).length) ∧
    (skipPlace P ≤ 8 * [0xD5#8, 0xAA#8, 0xAD#8].length ∧ 8 * [0xD5#8, 0xAA#8, 0xAD#8].length ≤ skipPlace P) ∧
    8 * [0xD5#8].length ≤ skipPlace P ∧
    (let Q := Config.defaults .sync .zero
     skipPlace Q ≤ 8 * [0xD5#8, 0xAA#8, 0xAD#8, 0x96#8].length ∧
     8 * [0xD5#8, 0xAA#8, 0xAD#8, 0x96#8].length ≤ skipPlace Q) := by decide +kernel

theorem witness_WcCompleteInstallsTheField :
    let s := sampling [0xD5#8, 0xAA#8, 0xAD#8]
    s.cache.data.wf 6656 = true ∧ 3 ≤ s.wc.len ∧ s.wc.buf.read 0 = 0xD5#8 ∧ s.wc.buf.read 1 = 0xAA#8 ∧
    s.wc.buf.read 2 = 0xAD#8 ∧ s.wc.known = true ∧ s.wc.phys < 16 ∧ s.cache.track ≠ none := by decide

theorem witness_WcCompleteDiscards :
    (sampling []).wc.len = 0 ∧ (1 ≤ (sampling [0xD5#8]).wc.len ∧ (sampling [0xD5#8, 0xAA#8]).wc.len < 3) ∧
    (3 ≤ (sampling [0xD5#8, 0xAA#8, 0x96#8]).wc.len ∧ (sampling [0xD5#8, 0xAA#8, 0x96#8]).wc.buf.read 2 ≠ 0xAD#8) ∧
    (let s : State := { base with wc := { (sampling [0xD5#8, 0xAA#8, 0xAD#8]).wc with known := false } }
     3 ≤ s.wc.len ∧ s.wc.buf.read 0 = 0xD5#8 ∧ s.wc.buf.read 1 = 0xAA#8 ∧ s.wc.buf.read 2 = 0xAD#8 ∧
     s.wc.known = false ∧ s.cache.track = none) := by decide

theorem witness_WcExitRestoresThenCompletes :
    (sampling []).wc.state = .sampling ∧ (sampling []).wc.known = true ∧ (sampling []).wc.phys < 16 := by decide

theorem witness_EventsOutOfPlaceAreIgnored : (sampling []).wc.state ≠ .idle ∧ base.wc.state ≠ .sampling := by decide

theorem witness_TcRebuildEncodesTheTrack :
    loaded.wc.state = .idle ∧ loaded.imgLoaded = true ∧ 34 ≤ 34 ∧ loaded.params.p2l[(1#4).toNat]? = some 7 := by decide

theorem exec_fieldDec_ok {s : State} {d raw : List Byte} (h : fieldDec s.params d = .ok raw) :
    exec (.fieldDec d) s = .next { s with answer := .bytes raw } := by
  show execFieldDec d s = _
  rw [execFieldDec, h]
  rfl

theorem exec_fieldDec_error {s : State} {d : List Byte} {e : ErrorOutcome} (h : fieldDec s.params d = .error e) :
    exec (.fieldDec d) s = .next { s with answer := .skip e } := by
  show execFieldDec d s = _
  rw [execFieldDec, h]
  rfl

/-- Slot 0 of the cache decodes to zeros, slot 1 holds no data field. -/
theorem witness_TcReconcileWritesDecodedSlots :
    let s := cachedWith 34 (Memory.ofBytes 53 (0xD5#8 :: 0xAA#8 :: 0xAD#8 :: List.replicate 343 0x96#8))
    s.wc.state = .idle ∧ s.cache.track = some 34 ∧ s.imgLoaded = true ∧ s.img.wf 143360 = true ∧ s.params.Admissible ∧
    s.params.p2l[(0 : Fin 16).val]? = some 0 ∧ s.params.p2l[(1 : Fin 16).val]? = some 7 ∧
    exec (.fieldDec (s.cache.data.block (0 * 416 + 53) 346)) s
      = .next { s with answer := .bytes (List.replicate 256 0x00#8) } ∧
    exec (.fieldDec (s.cache.data.block (1 * 416 + 53) 346)) s = .next { s with answer := .skip .prologue } := by
  refine ⟨rfl, rfl, rfl, rfl, witness_admissible.1, rfl, rfl, ?_, ?_⟩
  · exact exec_fieldDec_ok (by decide +kernel)
  · exact exec_fieldDec_error (by decide +kernel)

theorem witness_TcSelectOfCachedAndCleanTracks :
    (cachedWith 34 []).wc.state = .idle ∧ (cachedWith 34 []).cache.track = some 34 ∧
    (cachedWith 0 []).cache.track ≠ some 34 ∧ (cachedWith 0 []).cache.dirty = false ∧
    (cachedWith 0 []).imgLoaded = true ∧ (cachedWith 0 []).wc.state = .idle := by decide

theorem witness_TcSelectReconcilesADirtyCache :
    let s : State := { loaded with cache := { data := [], track := some 34, dirty := true } }
    s.wc.state = .idle ∧ 0 ≤ 34 ∧ s.cache.track = some 34 ∧ (34 : Nat) ≠ 0 ∧ s.cache.dirty = true ∧ s.imgLoaded = true := by
  decide

/-- A capture of slot 15 of track 34 that holds the field of a sector of A5 bytes, of length 346. -/
def captured : State :=
  { cachedWith 34 (Memory.ofBytes 0 (trkEnc P [] 34)) with
    wc := { Capture.reset with
            state := .sampling, known := true, phys := 15, log := 15, timer := true, synced := true, len := 346,
            buf := Memory.ofBytes 0 (dataPrologue ++ nicEnc P (List.replicate 256 0xA5#8)) } }

theorem captured_field_length : (dataPrologue ++ nicEnc P (List.replicate 256 0xA5#8)).length = 346 := by
  rw [List.length_append, nicEnc_length P List.length_replicate]
  rfl

theorem witness_WriteThroughLaw :
    captured.MemoriesOk ∧ captured.params.Admissible ∧ captured.imgLoaded = true ∧ (0 : Nat) ≠ 34 ∧
    captured.cache.track = some 34 ∧ captured.cache.dirty = false ∧
    captured.cache.data = Memory.ofBytes 0 (trkEnc captured.params captured.img 34) ∧
    captured.wc.state = .sampling ∧ captured.wc.known = true ∧ captured.wc.phys = (15 : Fin 16).val ∧
    captured.params.p2l[(15 : Fin 16).val]? = some 15 ∧
    exec (.nicEnc (List.replicate 256 0xA5#8)) captured
      = .next { captured with answer := .bytes (nicEnc P (List.replicate 256 0xA5#8)) } ∧
    346 ≤ captured.wc.len ∧ captured.wc.len ≤ 350 ∧
    captured.wc.buf.block 0 346 = [0xD5#8, 0xAA#8, 0xAD#8] ++ nicEnc P (List.replicate 256 0xA5#8) := by
  refine ⟨⟨rfl, trkEnc_wf P [] 34, rfl, Memory.wf_ofBytes _ ?_⟩, witness_admissible.1, rfl, by decide, rfl, rfl, rfl, rfl,
    rfl, rfl, rfl, rfl, by decide, by decide, ?_⟩
  · rw [captured_field_length]
    decide
  · have h := Memory.block_ofBytes (dataPrologue ++ nicEnc P (List.replicate 256 0xA5#8))
    rwa [captured_field_length] at h

theorem witness_FacTickDuringACaptureOnlyTracks : (sampling []).wc.state ≠ .idle := by decide

/-- The cached track is the head's after the sample, and it is not. -/
theorem witness_FacTickSelectsTheHeadsTrack :
    (cachedWith 0 []).Inv ∧ (cachedWith 34 []).Inv ∧ (cachedWith 0 []).wc.state = .idle ∧
    (cachedWith 0 []).imgLoaded = true ∧ (cachedWith 0 []).cache.track = some (sampleHead 0x1#4 (cachedWith 0 [])).head.log ∧
    (cachedWith 34 []).cache.track ≠ some (sampleHead 0x1#4 (cachedWith 34 [])).head.log :=
  ⟨by decide, by decide, rfl, rfl, rfl, by decide⟩

theorem witness_FacLoadReplacesTheImage : (sampling []).wc.state ≠ .idle ∧ base.wc.state = .idle := by decide

theorem witness_DbgRdsecAndDumpOnlyRead :
    (34 ≤ 34 ∧ 15 ≤ 15 ∧ loaded.imgLoaded = true) ∧ (34 < 35 ∨ 15 < 0) ∧ (34 < 0 ∨ 15 < 16) ∧ base.cache.track = none ∧
    (cachedWith 34 []).cache.track = some 34 := by decide

theorem witness_DbgWrsecWritesTheSector :
    base.wc.state = .idle ∧ 34 ≤ 34 ∧ 15 ≤ 15 ∧ (List.replicate 256 0x77#8).length = 256 ∧ base.img.wf 143360 = true ∧
    (sampling []).wc.state ≠ .idle ∧ (34 < 35 ∨ 15 < 0) ∧ (34 < 0 ∨ 15 < 16) := by decide +kernel

theorem witness_OutOfRangeInputsAreRejected : (34 < 35 ∨ 15 < 0) ∧ (34 < 0 ∨ 15 < 16) ∧ base.wc.state = .idle := by decide

theorem witness_MainTickOperationsRefusedDuringACapture : (sampling []).wc.state ≠ .idle := by decide

theorem witness_ImageReadsRefusedBeforeTheFirstLoad :
    base.imgLoaded = false ∧ base.cache.track = none ∧ base.cache.dirty = false ∧ base.wc.state = .idle ∧ base.head.Ok ∧
    34 ≤ 34 ∧ 15 ≤ 15 := by decide

theorem witness_EveryStepKeepsTheInvariant :
    ({ base with pending := [0x40#8] } : State).Inv ∧ ∃ t, step { base with pending := [0x40#8] } = .next t :=
  ⟨by decide, _, rfl⟩

/-- Also for NoStepLeavesTheAddressSpaces, whose one hypothesis is the invariant. -/
theorem witness_EveryStepKeepsTheLineExclusive :
    let s : State := { base with pending := [0x40#8] }
    s.Inv ∧ s.LineExclusive ∧ (∀ i rest, decode s.pending = .ok (i, rest) → i.opClass ≠ .internal) ∧
    ∃ t, step s = .next t := by
  refine ⟨by decide, by decide, fun i rest h => ?_, _, rfl⟩
  cases h
  decide

theorem witness_NoStepLeavesTheAddressSpaces : base.Inv ∧ (cachedWith 34 []).Inv := ⟨by decide, by decide⟩

/-- A clean cache of track 34 that mirrors the image, and a TC.SELECT of that track. -/
theorem witness_CleanCacheMirrorsTheImage :
    let s : State := { cachedWith 34 (Memory.ofBytes 0 (trkEnc P [] 34)) with pending := [0x50#8, 0x22#8] }
    s.Inv ∧ s.CacheMirrorsImage ∧ decode s.pending = .ok (.tcSelect 34, []) ∧ ∃ t, step s = .next t := by
  refine ⟨⟨⟨rfl, trkEnc_wf P [] 34, rfl, rfl⟩, by decide, by decide, by decide, by decide⟩, fun _ t h => ?_,
    by decide, _, rfl⟩
  cases h
  rfl

theorem witness_SpacesHaveOnlyTheirWriters :
    after (.facLoad [0x01#8]) loaded (fun t => decide (t.img ≠ loaded.img)) = some true ∧
    after .wcComplete (sampling [0xD5#8, 0xAA#8, 0xAD#8]) (fun t => decide (t.cache.data ≠ [])) = some true ∧
    after .rdRestore (cachedWith 0 [(0, 0x01#8)]) (fun t => decide (t.rd.buf ≠ [])) = some true ∧
    after (.wcAppend true) { sampling [] with wc := { (sampling []).wc with shift := 0x6A#8, nbits := 7 } }
      (fun t => decide (t.wc.buf ≠ [])) = some true := by decide

theorem witness_HeadAndParametersHaveOnlyTheirWriters :
    after (.stpSample 0x8#4) base (fun t => decide (t.head ≠ base.head)) = some true ∧
    after .wcExit (sampling [0xD5#8, 0xAA#8, 0xAD#8]) (fun t => t.cache.dirty) = some true ∧
    (sampling [0xD5#8, 0xAA#8, 0xAD#8]).cache.dirty = false ∧
    after (.facLoad []) { loaded with cache := { data := [], track := some 5, dirty := true } }
      (fun t => t.cache.dirty) = some false := by decide

end Sys2Proof.Tests
end

section
/-! PROOFS. The decoder gives well-formed operations only. -/

namespace Sys2Proof

theorem Decoded.andThen_eq_ok {α β : Type} {d : Decoded α} {f : α → List Byte → Decoded β} {b : β} {rest : List Byte} :
    d.andThen f = .ok (b, rest) ↔ ∃ a bs, d = .ok (a, bs) ∧ f a bs = .ok (b, rest) := by
  rcases d with e | ⟨a, bs⟩ <;> simp [Decoded.andThen]

theorem Decoded.as_eq_ok {α β : Type} {d : Decoded α} {f : α → β} {b : β} {rest : List Byte} :
    d.as f = .ok (b, rest) ↔ ∃ a, d = .ok (a, rest) ∧ f a = b := by
  rcases d with e | ⟨a, bs⟩ <;> simp [Decoded.as, Decoded.andThen, and_comm]

theorem readNumber_le {bs rest : List Byte} {n : Nat} (h : readNumber bs = .ok (n, rest)) : n ≤ 255 := by
  obtain ⟨b, -, rfl⟩ := Decoded.as_eq_ok.1 h
  have := b.isLt
  omega

theorem readTrack_le {bs rest : List Byte} {T : Nat} (h : readTrack bs = .ok (T, rest)) : T ≤ 34 := by
  obtain ⟨b, bs', -, hb⟩ := Decoded.andThen_eq_ok.1 h
  split at hb
  · cases hb; assumption
  · cases hb

theorem readArray_length {n : Nat} {bs l rest : List Byte} (h : readArray n bs = .ok (l, rest)) : l.length = n := by
  induction n generalizing bs l with
  | zero => cases h; rfl
  | succ n ih =>
    cases bs with
    | nil => cases h
    | cons b bs =>
      obtain ⟨l', hl, rfl⟩ := Decoded.as_eq_ok.1 h
      simp [ih hl]

theorem readImage_length {bs l rest : List Byte} (h : readImage bs = .ok (l, rest)) : l.length ≤ 143360 := by
  obtain ⟨l', bs', -, hb⟩ := Decoded.andThen_eq_ok.1 h
  split at hb
  · cases hb; assumption
  · cases hb

/-- Each operand reader gives only values in its operand's range, so whatever the decoder reads is well formed (R81). -/
theorem decode_wellFormed {bytes rest : List Byte} {i : Instr} (h : decode bytes = .ok (i, rest)) :
    i.wellFormed = true := by
  cases bytes with
  | nil => cases h
  | cons id bs =>
    simp only [decode] at h
    split at h
    all_goals simp only [Decoded.as_eq_ok, Decoded.andThen_eq_ok, Except.ok.injEq, Prod.mk.injEq, reduceCtorEq] at h
    all_goals grind [Instr.wellFormed, readTrack_le, readNumber_le, readArray_length, readImage_length]
end Sys2Proof
end

section
/-! PROOFS. For each operation one lemma that says everything it can do when it answers a next state, and what the change of
track and field completion leave alone. -/

namespace Sys2Proof.Machine

theorem armed_iff {wc : Capture} : wc.armed = true ↔ wc.state ≠ .idle := by simp [Capture.armed]

theorem not_armed_iff {wc : Capture} : ¬wc.armed = true ↔ wc.state = .idle := by simp [Capture.armed]

/-- The guard of R55: an operation the main tick alone runs has a next state only while no capture is armed. -/
theorem idle_of_guarded_eq_next {s t : State} {o : Out}
    (h : (if s.wc.armed then .refused .duringCapture else o) = .next t) : s.wc.state = .idle ∧ o = .next t := by
  split at h
  · cases h
  · exact ⟨not_armed_iff.1 ‹_›, h⟩

/-- The functions of R79 answer and change nothing else. -/
theorem exec_function_eq_next {i : Instr} {s t : State} (hi : i.opClass = .function) (h : exec i s = .next t) :
    ∃ a, t = { s with answer := a } := by
  cases i with
  | trkEnc img T =>
    change execTrkEnc img T s = .next t at h
    unfold execTrkEnc at h
    split at h
    · exact ⟨_, answer_eq_next.1 h⟩
    · cases h
  | nicDec enc =>
    change execNicDec enc s = .next t at h
    unfold execNicDec at h
    split at h <;> exact ⟨_, answer_eq_next.1 h⟩
  | fieldDec d =>
    change execFieldDec d s = .next t at h
    unfold execFieldDec at h
    split at h <;> exact ⟨_, answer_eq_next.1 h⟩
  | nibEnc _ | nibDec _ | n44Enc _ | n44Dec _ _ | pairEnc _ _ _ | pairDec _ | ilvP2l _ | ilvL2p _ | nicEnc _
  | addrEnc _ _ _ | secEnc _ _ _ | addrDec _ => exact ⟨_, answer_eq_next.1 h⟩
  | _ => cases hi

theorem execStpSample_eq_next {sample : BitVec 4} {s t : State} (h : execStpSample sample s = .next t) :
    ∃ a, t = { sampleHead sample s with answer := a } := by
  unfold execStpSample at h
  split at h <;> exact ⟨_, answer_eq_next.1 h⟩

theorem execRdClk_eq_next {s t : State} (h : execRdClk s = .next t) :
    (s.rd.run = false ∧ t = { s with answer := .ignored }) ∨
    (s.rd.run = true ∧ s.rd.filled = true ∧ ∃ level, t = { s with
      pin := { s.pin with rd := s.pin.selected && level }, rd := s.rd.advance s.cache, answer := .ok }) := by
  unfold execRdClk at h
  split at h
  · exact .inl ⟨by assumption, answer_eq_next.1 h⟩
  · rename_i hrun
    obtain ⟨hfilled, -, h⟩ := readBlock_eq_next.1 h
    exact .inr ⟨by simpa using hrun, hfilled, _, answer_eq_next.1 h⟩

/-- The capture registers an accepted WC.ENTER leaves (R129, R131). -/
def Capture.entered (wc : Capture) (P : Params) (pos : Nat) (found : Option (Fin 16)) : Capture :=
  { (({ wc with pos := pos }.located P found).cleared P.skipOrigin) with timer := true, state := .sampling }

/-- The transient value of `wc.state` inside WC.ENTER (R142) leaves no trace. -/
theorem Capture.entered_of_state (st : CaptureState) (wc : Capture) (P : Params) (pos : Nat) (found : Option (Fin 16)) :
    { wc with state := st }.entered P pos found = wc.entered P pos found := by
  cases found <;> rfl

theorem execWcEnter_eq_next {s t : State} (h : execWcEnter s = .next t) :
    (s.wc.state ≠ .idle ∧ t = { s with answer := .ignored }) ∨
    (s.wc.state = .idle ∧ t = { s with
      pin := { s.pin with weN := false, rd := false }
      rd := { s.rd with run := false }
      wc := s.wc.entered s.params s.rd.byte (scanSector s.rd s.rd.byte)
      answer := .ok }) := by
  unfold execWcEnter at h
  split at h
  · exact .inl ⟨armed_iff.1 ‹_›, answer_eq_next.1 h⟩
  · refine .inr ⟨not_armed_iff.1 ‹_›, ?_⟩
    rw [answer_eq_next.1 h, ← Capture.entered_of_state .locatingSector]
    rfl

theorem execWcEdge_eq_next {s t : State} (h : execWcEdge s = .next t) :
    t = { s with answer := .ignored } ∨
    (s.wc.state = .sampling ∧ s.pin.selected = true ∧
      t = { appendBit true { s with pin := { s.pin with wd := !s.pin.wd } } with answer := .ok }) := by
  unfold execWcEdge at h
  split at h
  · exact .inl (answer_eq_next.1 h)
  · split at h
    · exact .inl (answer_eq_next.1 h)
    · exact .inr ⟨not_not.1 ‹_›, by simpa using ‹¬s.pin.selected = false›, answer_eq_next.1 h⟩

theorem execWcTick_eq_next {s t : State} (h : execWcTick s = .next t) :
    t = { s with answer := .ignored } ∨
    (s.wc.state = .sampling ∧ s.wc.timer = true ∧ t = { appendBit false s with answer := .ok }) := by
  unfold execWcTick at h
  split at h
  · rename_i hg
    exact .inr ⟨hg.1, hg.2, answer_eq_next.1 h⟩
  · exact .inl (answer_eq_next.1 h)

/-- Inside an accepted WC.EXIT: write-enable released, the timer stopped (R138, R142). -/
def State.flushing (s : State) : State :=
  { s with pin := { s.pin with weN := true }, wc := { s.wc with state := .flushing, timer := false } }

theorem execWcExit_eq_next {s t : State} (h : execWcExit s = .next t) :
    (s.wc.state ≠ .sampling ∧ t = { s with answer := .ignored }) ∨
    (s.wc.state = .sampling ∧ ∃ u,
      completeField (restoreReader s.flushing) = .next u ∧
      t = { u with wc := { u.wc with state := .idle } }) := by
  unfold execWcExit at h
  split at h
  · exact .inl ⟨by assumption, answer_eq_next.1 h⟩
  · obtain ⟨u, hu, ht⟩ := andThen_eq_next.1 h
    cases ht
    exact .inr ⟨not_not.1 ‹_›, u, hu, rfl⟩

theorem execTcReconcile_eq_next {s t : State} (h : execTcReconcile s = .next t) :
    s.wc.state = .idle ∧ reconcile s = .next t := idle_of_guarded_eq_next h

theorem execTcRebuild_eq_next {T : Nat} {s t : State} (h : execTcRebuild T s = .next t) :
    s.wc.state = .idle ∧ rebuild T s = .next t := idle_of_guarded_eq_next h

theorem execFacTick_eq_next {sample : BitVec 4} {s t : State} (h : execFacTick sample s = .next t) :
    (s.wc.state ≠ .idle ∧ t = { sampleHead sample s with answer := .ok }) ∨
    (s.wc.state = .idle ∧ ∃ u,
      (u = sampleHead sample s ∨ select (sampleHead sample s).head.log (sampleHead sample s) = .next u) ∧
      t = { advanceRot u with answer := .ok }) := by
  simp only [execFacTick, sampleHead_wc] at h
  split at h
  · exact .inl ⟨armed_iff.1 ‹_›, answer_eq_next.1 h⟩
  · obtain ⟨u, hu, h⟩ := andThen_eq_next.1 h
    refine .inr ⟨not_armed_iff.1 ‹_›, u, ?_, answer_eq_next.1 h⟩
    split at hu
    · cases hu
      exact .inl rfl
    · exact .inr hu

theorem execFacLoad_eq_next {bytes : List Byte} {s t : State} (h : execFacLoad bytes s = .next t) :
    s.wc.state = .idle ∧
      t = { s with
            img := imageOf bytes
            imgLoaded := true
            imageName := Config.imageName s.draws
            draws := s.draws + 1
            head := s.head.force s.params.bringup.val s.pin.phase
            cache := { s.cache with track := none, dirty := false }
            answer := .ok } := by
  obtain ⟨hidle, h⟩ := idle_of_guarded_eq_next h
  exact ⟨hidle, answer_eq_next.1 h⟩

theorem execDbgRdsec_eq_next {n sec : Nat} {s t : State} (h : execDbgRdsec n sec s = .next t) :
    ∃ a, t = { s with answer := a } := by
  unfold execDbgRdsec at h
  split at h
  · exact ⟨_, answer_eq_next.1 h⟩
  · obtain ⟨-, -, h⟩ := readBlock_eq_next.1 h
    exact ⟨_, answer_eq_next.1 h⟩

theorem execDbgWrsec_eq_next {n sec : Nat} {data : List Byte} {s t : State} (h : execDbgWrsec n sec data s = .next t) :
    s.wc.state = .idle ∧
    ((inRange n sec = false ∧ t = { s with answer := .error .range }) ∨
     (inRange n sec = true ∧ sectorAddr n sec + data.length ≤ 143360 ∧
       t = { s with img := s.img.writeList (sectorAddr n sec) data, answer := .ok })) := by
  obtain ⟨hidle, h⟩ := idle_of_guarded_eq_next h
  refine ⟨hidle, ?_⟩
  split at h
  · exact .inl ⟨by assumption, answer_eq_next.1 h⟩
  · rename_i hr
    obtain ⟨u, hu, h⟩ := andThen_eq_next.1 h
    obtain ⟨hb, rfl⟩ := writeBlock_eq_next.1 hu
    exact .inr ⟨by simpa using hr, hb, answer_eq_next.1 h⟩

theorem execDbgSettrk_eq_next {T : Nat} {sample : BitVec 4} {s t : State} (h : execDbgSettrk T sample s = .next t) :
    s.wc.state = .idle ∧
    ((34 < T ∧ t = { s with answer := .error .range }) ∨
     (T ≤ 34 ∧
       t = { s with pin := { s.pin with phase := sample }, head := s.head.force T sample, answer := .ok })) := by
  obtain ⟨hidle, h⟩ := idle_of_guarded_eq_next h
  refine ⟨hidle, ?_⟩
  split at h
  · exact .inl ⟨by assumption, answer_eq_next.1 h⟩
  · exact .inr ⟨by omega, answer_eq_next.1 h⟩

/-- What a step does: nothing while nothing is pending, else the decoded operation on the state without its bytes. -/
theorem step_eq_next {s t : State} (h : step s = .next t) :
    (s.pending = [] ∧ t = s) ∨
    ∃ i rest, decode s.pending = .ok (i, rest) ∧ exec i { s with pending := rest } = .next t := by
  by_cases hp : s.pending = []
  · rw [step_idle hp] at h
    cases h
    exact .inl ⟨hp, rfl⟩
  · rw [step_eq hp] at h
    unfold stepNext fetch at h
    split at h
    · exact .inr ⟨_, _, by assumption, h⟩
    · cases h

/-! ### What a change of track leaves alone -/

theorem startReader_frame {s t : State} (h : startReader s = .next t) :
    t.params = s.params ∧ t.head = s.head ∧ t.cache = s.cache := by
  obtain ⟨-, -, -, rfl⟩ | ⟨-, rfl⟩ := startReader_eq_next h <;> exact ⟨rfl, rfl, rfl⟩

theorem reconcile_frame {s t : State} (h : reconcile s = .next t) :
    t.params = s.params ∧ t.head = s.head ∧ t.cache = s.cache := by
  obtain ⟨T, -, -, -, rfl⟩ := reconcile_eq_next h
  exact ⟨rfl, rfl, rfl⟩

theorem rebuild_frame {T : Nat} {s t : State} (h : rebuild T s = .next t) :
    t.params = s.params ∧ t.head = s.head ∧ t.cache.dirty = s.cache.dirty := by
  obtain ⟨-, -, rfl⟩ := rebuild_eq_next h
  exact ⟨rfl, rfl, rfl⟩

theorem changeTrack_frame {T : Nat} {s t : State} (h : changeTrack T s = .next t) :
    t.params = s.params ∧ t.head = s.head ∧ t.cache.dirty = false := by
  obtain ⟨u, v, hu, hv, ht⟩ := changeTrack_eq_next h
  have hsu : u.params = s.params ∧ u.head = s.head := by
    split at hu
    · obtain ⟨hp, hh, -⟩ := reconcile_frame hu
      exact ⟨hp, hh⟩
    · cases hu
      exact ⟨rfl, rfl⟩
  obtain ⟨hvp, hvh, -⟩ := rebuild_frame hv
  obtain ⟨htp, hth, htc⟩ := startReader_frame ht
  exact ⟨htp.trans (hvp.trans hsu.1), hth.trans (hvh.trans hsu.2), by rw [htc]⟩

/-- TC.SELECT never sets `cache.dirty` (R17). -/
theorem select_frame {T : Nat} {s t : State} (h : select T s = .next t) :
    t.params = s.params ∧ t.head = s.head ∧ (t.cache.dirty = true → s.cache.dirty = true) := by
  obtain ⟨-, ⟨-, rfl⟩ | ⟨-, -, rfl⟩ | ⟨-, -, hc⟩⟩ := select_eq_next h
  · exact ⟨rfl, rfl, id⟩
  · exact ⟨rfl, rfl, id⟩
  · obtain ⟨hp, hh, hd⟩ := changeTrack_frame hc
    exact ⟨hp, hh, by simp [hd]⟩

/-- Field completion writes the cache alone, and never clears `cache.dirty` (R17). -/
theorem completeField_frame {s t : State} (h : completeField s = .next t) :
    ∃ c a, t = { s with cache := c, answer := a } ∧ (c.dirty = false → s.cache.dirty = false) := by
  obtain ⟨e, -, rfl⟩ | ⟨-, -, rfl⟩ := completeField_eq_next h
  · exact ⟨s.cache, _, rfl, id⟩
  · exact ⟨_, _, rfl, fun hd => nomatch hd⟩

end Sys2Proof.Machine
end

section
/-! PROOFS. The invariant: what it says of each component, and that every operation keeps it. -/

namespace Sys2Proof.Machine

/-! ### The invariant, component by component

`State.Inv` speaks of the whole state. Each of its parts is about one component, so it is kept here as one predicate of
that component with named fields; `State.inv_iff_sound` says that together they are the invariant. -/

/-- What the invariant says of the track cache, for an image that is `loaded` or not (R16, R40, R144). -/
structure Cache.Sound (loaded : Bool) (c : Cache) : Prop where
  data : c.data.wf 6656 = true
  track : ∀ t ∈ c.track, t ≤ 34 ∧ loaded = true
  dirty : c.dirty = true → c.track.isSome = true

/-- What the invariant says of the reader and its output pin (R24 to R26, R40, R120, R121). -/
structure Reader.Sound (pin : Pins) (r : Reader) : Prop where
  buf : r.buf.wf 6656 = true
  byte : r.byte < 6656
  bit : r.bit < 8
  filled : r.run = true → r.filled = true
  deselected : pin.selN = true → pin.rd = false
  stopped : r.run = false → pin.rd = false

/-- What the invariant says of the capture engine (R27 to R33, R40, R44, R131, R142). -/
structure Capture.Sound (P : Params) (wc : Capture) : Prop where
  buf : wc.buf.wf 350 = true
  state : wc.state = .idle ∨ wc.state = .sampling
  timer : wc.timer = true ↔ wc.state = .sampling
  pos : wc.pos < 6656
  phys : wc.phys < 16
  log : wc.log < 16
  nbits : wc.nbits < 8
  len : wc.len ≤ 350
  cnt : wc.cnt ≤ 25
  skip : wc.skipDone = false → wc.cnt < 25
  synced : wc.synced = true ↔ 1 ≤ wc.len
  first : 1 ≤ wc.len → wc.buf.read 0 = 0xD5#8
  known : wc.known = true → wc.log = (p2l P (Fin.ofNat 16 wc.phys)).val

/-- The invariant as the soundness of the components. -/
structure State.Sound (s : State) : Prop where
  img : s.img.wf 143360 = true
  head : s.head.Ok
  cache : s.cache.Sound s.imgLoaded
  rd : s.rd.Sound s.pin
  wc : s.wc.Sound s.params

theorem State.inv_iff_sound (s : State) : s.Inv ↔ s.Sound := by
  constructor
  · rintro ⟨⟨himg, hdata, hbuf, hcap⟩, hhead, ⟨htrack, hdirty⟩, ⟨hbyte, hbit, hfilled, hdes, hstop⟩,
      hstate, htimer, hpos, hphys, hlog, hnbits, hlen, hcnt, hskip, hsynced, hfirst, hknown⟩
    exact ⟨himg, hhead, ⟨hdata, htrack, hdirty⟩, ⟨hbuf, hbyte, hbit, hfilled, hdes, hstop⟩,
      ⟨hcap, hstate, htimer, hpos, hphys, hlog, hnbits, hlen, hcnt, hskip, hsynced, hfirst, hknown⟩⟩
  · rintro ⟨himg, hhead, ⟨hdata, htrack, hdirty⟩, ⟨hbuf, hbyte, hbit, hfilled, hdes, hstop⟩,
      ⟨hcap, hstate, htimer, hpos, hphys, hlog, hnbits, hlen, hcnt, hskip, hsynced, hfirst, hknown⟩⟩
    exact ⟨⟨himg, hdata, hbuf, hcap⟩, hhead, ⟨htrack, hdirty⟩, ⟨hbyte, hbit, hfilled, hdes, hstop⟩,
      hstate, htimer, hpos, hphys, hlog, hnbits, hlen, hcnt, hskip, hsynced, hfirst, hknown⟩

/-! ### The reset state -/

theorem afterReset_sound (P : Params) (pin : Pins) (draw : Nat) (saves : List SaveTrack) (pending : List Byte) :
    (State.afterReset P pin draw saves pending).Sound where
  img := rfl
  head := ⟨by simp only [State.afterReset, Head.reset]; omega, by simp [State.afterReset, Head.reset]⟩
  cache := { data := rfl, track := nofun, dirty := nofun }
  rd :=
    { buf := rfl, byte := Nat.succ_pos _, bit := Nat.succ_pos _, filled := nofun, deselected := fun _ => rfl
      stopped := fun _ => rfl }
  wc := by constructor <;> simp [State.afterReset, Capture.reset, Memory.wf_nil]

/-! ### The tracker -/

theorem clamp_toNat_le (x : Int) (hi : Nat) : (clamp x 0 hi).toNat ≤ hi := by
  unfold clamp
  split
  · simp
  · split <;> omega

theorem Head.Ok.move {h : Head} (hok : h.Ok) (ofs : Fin 4) : (h.move ofs).Ok := by
  obtain ⟨hphys, -⟩ := hok
  have hfwd := clamp_toNat_le (h.phys + 1) 69
  have hbwd := clamp_toNat_le (h.phys - 1) 69
  refine ⟨?_, by simp [Head.move, Nat.shiftRight_eq_div_pow]⟩
  unfold Head.move
  dsimp only
  split_ifs <;> assumption

theorem Head.Ok.force {T : Nat} (hT : T ≤ 34) (h : Head) (sample : BitVec 4) : (h.force T sample).Ok := by
  unfold Head.force
  split <;> exact ⟨by dsimp only; omega, by dsimp only; omega⟩

theorem Head.Ok.sampleHead {s : State} (hok : s.head.Ok) (sample : BitVec 4) : (sampleHead sample s).head.Ok := by
  cases hs : oneHot sample with
  | none => rwa [sampleHead_head_none hs]
  | some ofs =>
    rw [sampleHead_head_some hs]
    exact hok.move ofs

/-! ### The reader -/

theorem Reader.Sound.rewind {pin : Pins} {r : Reader} (h : r.Sound pin) : { r with byte := 0, bit := 0 }.Sound pin :=
  { h with byte := Nat.succ_pos _, bit := Nat.succ_pos _ }

/-- A reader just started from the cache (R122, R123). -/
theorem Reader.Sound.started {pin : Pins} {r : Reader} (h : r.Sound pin) {loaded : Bool} {c : Cache}
    (hc : c.Sound loaded) :
    Reader.Sound pin { run := true, buf := c.data, filled := true, byte := 0, bit := 0 } :=
  { h.rewind with buf := hc.data, filled := fun _ => rfl, stopped := nofun }

theorem Reader.Sound.refresh {pin : Pins} {r : Reader} (h : r.Sound pin) {loaded : Bool} {c : Cache}
    (hc : c.Sound loaded) : (refresh c r).Sound pin := by
  unfold Machine.refresh
  split
  · exact { h with buf := hc.data, filled := fun _ => rfl }
  · exact h

theorem Reader.Sound.advance {pin : Pins} {r : Reader} (h : r.Sound pin) {loaded : Bool} {c : Cache}
    (hc : c.Sound loaded) : (r.advance c).Sound pin := by
  have hbyte := h.byte
  have hbit := h.bit
  unfold Reader.advance
  split
  · split
    · exact h.rewind.refresh hc
    · exact { h with byte := by dsimp only; omega, bit := by dsimp only; omega }
  · exact { h with bit := by dsimp only; omega }

/-- A running reader drives its pin while the drive is selected, and holds it low otherwise (R120). -/
theorem Reader.Sound.output {pin : Pins} {r : Reader} (h : r.Sound pin) (hrun : r.run = true) (level : Bool) :
    r.Sound { pin with rd := pin.selected && level } :=
  { h with
    deselected := fun hsel => by simp_all [Pins.selected]
    stopped := fun hstop => by simp_all }

theorem Reader.Sound.stop {pin : Pins} {r : Reader} (h : r.Sound pin) :
    { r with run := false }.Sound { pin with rd := false } :=
  { h with filled := nofun, deselected := fun _ => rfl, stopped := fun _ => rfl }

theorem Reader.Sound.select {pin : Pins} {r : Reader} (h : r.Sound pin) (level : Bool) :
    r.Sound { pin with selN := level, rd := if level then false else pin.rd } :=
  { h with
    deselected := fun hsel => if_pos hsel
    stopped := fun hstop => by simp [h.stopped hstop] }

theorem Reader.Sound.restore {s : State} (h : s.rd.Sound s.pin) {loaded : Bool} (hc : s.cache.Sound loaded) :
    (restoreReader s).rd.Sound s.pin := by
  cases ht : s.cache.track with
  | none =>
    rw [restoreReader_rd_invalid s ht]
    exact h.rewind
  | some t =>
    rw [restoreReader_rd_valid s ht]
    exact h.started hc

/-! ### The capture engine -/

theorem Capture.Sound.completeByte {P : Params} {wc : Capture} (h : wc.Sound P) (b : Byte) :
    (wc.completeByte P b).Sound P := by
  unfold Capture.completeByte
  split
  · rename_i hsynced
    have hlen := h.synced.1 hsynced
    split
    · rename_i hroom
      exact { h with
        buf := Memory.wf_write h.buf hroom b
        len := hroom
        synced := by simp [hsynced]
        first := fun _ => by rw [Memory.read_write h.buf, if_neg (by omega), h.first hlen] }
    · exact h
  · split
    · have hsync : { wc with synced := true, buf := wc.buf.write 0 0xD5#8, len := 1 }.Sound P :=
        { h with
          buf := Memory.wf_write h.buf (by decide) _
          len := by simp
          synced := by simp
          first := fun _ => by rw [Memory.read_write h.buf, if_pos rfl] }
      split
      · exact hsync
      · have hcount : P.skipPreload.count ≤ 8 := by cases P.skipPreload <;> decide
        exact { hsync with cnt := by dsimp only; omega, skip := fun _ => by dsimp only; omega }
    · exact h

theorem Capture.Sound.shiftBit {P : Params} {wc : Capture} (h : wc.Sound P) (b : Bool) :
    (wc.shiftBit P b).Sound P := by
  have hnbits := h.nbits
  unfold Capture.shiftBit
  split
  · have hfull : { wc with shift := shiftIn wc.shift b, nbits := 0 }.Sound P := { h with nbits := by simp }
    exact hfull.completeByte _
  · exact { h with nbits := by dsimp only; omega }

theorem Capture.Sound.append {P : Params} {wc : Capture} (h : wc.Sound P) (b : Bool) : (wc.append P b).Sound P := by
  unfold Capture.append
  dsimp only
  split
  · rename_i hg
    have hcnt := h.skip hg.2
    split
    · exact { h with cnt := hcnt, skip := nofun }
    · have hcounted : { wc with cnt := wc.cnt + 1 }.Sound P :=
        { h with cnt := hcnt, skip := fun _ => by dsimp only; omega }
      exact hcounted.shiftBit b
  · exact h.shiftBit b

/-- Whatever the scan finds, a known slot comes with its logical sector (R131). -/
theorem Capture.Sound.located {P : Params} {wc : Capture} (h : wc.Sound P) (found : Option (Fin 16)) :
    (wc.located P found).Sound P := by
  cases found with
  | none => exact { h with known := nofun }
  | some p => exact { h with phys := p.isLt, log := (p2l P p).isLt, known := fun _ => by simp [Capture.located] }

theorem Capture.Sound.cleared {P : Params} {wc : Capture} (h : wc.Sound P) (origin : SkipOrigin) :
    (wc.cleared origin).Sound P :=
  { h with
    nbits := Nat.succ_pos _
    len := Nat.zero_le _
    cnt := Nat.zero_le _
    skip := fun _ => Nat.succ_pos _
    synced := by simp [Capture.cleared]
    first := nofun }

theorem Capture.Sound.armed {P : Params} {wc : Capture} (h : wc.Sound P) :
    { wc with timer := true, state := .sampling }.Sound P :=
  { h with state := .inr rfl, timer := by simp }

theorem Capture.Sound.entered {P : Params} {wc : Capture} (h : wc.Sound P) {pos : Nat} (hpos : pos < 6656)
    (found : Option (Fin 16)) : (wc.entered P pos found).Sound P :=
  have hat : { wc with pos := pos }.Sound P := { h with pos := hpos }
  ((hat.located found).cleared P.skipOrigin).armed

theorem Capture.Sound.exited {P : Params} {wc : Capture} (h : wc.Sound P) :
    { wc with timer := false, state := .idle }.Sound P :=
  { h with state := .inl rfl, timer := by simp }

/-! ### The cache and the image -/

/-- Field completion keeps the cache sound: it installs into a cached track only, inside the space (R139, R140). -/
theorem completeField_cache_sound {s t : State} (h : completeField s = .next t) {loaded : Bool}
    (hc : s.cache.Sound loaded) : t.cache.Sound loaded := by
  obtain ⟨e, -, rfl⟩ | ⟨hnone, hfit, rfl⟩ := completeField_eq_next h
  · exact hc
  · obtain ⟨-, -, -, hvalid⟩ := completionOutcome_eq_none.1 hnone
    exact { hc with
      data := Memory.wf_writeList hc.data _ (by rwa [Memory.block_length])
      dirty := fun _ => hvalid }

theorem reconcileSlot_wf (P : Params) (data : Memory) {t : Nat} (ht : t ≤ 34) {img : Memory}
    (h : img.wf 143360 = true) (p : Fin 16) : (reconcileSlot P data t img p).wf 143360 = true := by
  unfold reconcileSlot
  split
  · rename_i raw hraw
    refine Memory.wf_writeList h raw ?_
    have hp := (p2l P p).isLt
    rw [fieldDec_length hraw, sectorAddr]
    omega
  · exact h

theorem reconcileImage_wf (P : Params) (data : Memory) {t : Nat} (ht : t ≤ 34) {img : Memory}
    (h : img.wf 143360 = true) : (reconcileImage P data t img).wf 143360 = true :=
  List.foldlRecOn (motive := fun m => Memory.wf 143360 m = true) _ _ h
    fun _ hm p _ => reconcileSlot_wf P data ht hm p

/-! ### The shared operations -/

theorem State.Sound.startReader {s t : State} (hs : s.Sound) (h : startReader s = .next t) : t.Sound := by
  obtain ⟨-, -, -, rfl⟩ | ⟨-, rfl⟩ := startReader_eq_next h
  · exact { hs with rd := hs.rd.started hs.cache }
  · exact { hs with }

theorem State.Sound.reconcile {s t : State} (hs : s.Sound) (h : reconcile s = .next t) : t.Sound := by
  obtain ⟨T, -, -, hT, rfl⟩ := reconcile_eq_next h
  exact { hs with img := reconcileImage_wf _ _ hT hs.img }

theorem State.Sound.rebuild {T : Nat} {s t : State} (hs : s.Sound) (h : rebuild T s = .next t) : t.Sound := by
  obtain ⟨hloaded, hT, rfl⟩ := rebuild_eq_next h
  exact { hs with
    cache := { data := trkEnc_wf _ _ _, track := fun u hu => by cases hu; exact ⟨hT, hloaded⟩, dirty := fun _ => rfl } }

theorem State.Sound.changeTrack {T : Nat} {s t : State} (hs : s.Sound) (h : changeTrack T s = .next t) : t.Sound := by
  obtain ⟨u, v, hu, hv, ht⟩ := changeTrack_eq_next h
  have hsu : u.Sound := by
    split at hu
    · exact hs.reconcile hu
    · cases hu
      exact hs
  have hsv := hsu.rebuild hv
  have hclean : { v with cache := { v.cache with dirty := false } }.Sound :=
    { hsv with cache := { hsv.cache with dirty := nofun } }
  exact hclean.startReader ht

theorem State.Sound.sampleHead {s : State} (hs : s.Sound) (sample : BitVec 4) : (sampleHead sample s).Sound where
  img := by simpa using hs.img
  head := hs.head.sampleHead sample
  cache := by simpa using hs.cache
  rd := by
    have hpin : s.rd.Sound { s.pin with phase := sample } := { hs.rd with }
    simpa using hpin
  wc := by simpa using hs.wc

theorem State.Sound.select {T : Nat} {s t : State} (hs : s.Sound) (h : select T s = .next t) : t.Sound := by
  obtain ⟨-, ⟨-, rfl⟩ | ⟨-, -, rfl⟩ | ⟨-, -, hc⟩⟩ := select_eq_next h
  · exact { hs with }
  · exact { hs with }
  · exact hs.changeTrack hc

/-! ### Every operation and every step -/

theorem State.Sound.wcExit {s t : State} (hs : s.Sound) (h : execWcExit s = .next t) : t.Sound := by
  obtain ⟨-, rfl⟩ | ⟨-, u, hu, rfl⟩ := execWcExit_eq_next h
  · exact { hs with }
  · have hpin : s.rd.Sound { s.pin with weN := true } := { hs.rd with }
    have hcache := completeField_cache_sound hu hs.cache
    obtain ⟨c, a, rfl, -⟩ := completeField_frame hu
    exact { hs with cache := hcache, rd := Reader.Sound.restore (s := s.flushing) hpin hs.cache, wc := hs.wc.exited }

theorem exec_sound {i : Instr} {s t : State} (hi : i.wellFormed = true) (hs : s.Sound) (h : exec i s = .next t) :
    t.Sound := by
  cases i with
  | nibEnc _ | nibDec _ | n44Enc _ | n44Dec _ _ | pairEnc _ _ _ | pairDec _ | ilvP2l _ | ilvL2p _ | nicEnc _
  | addrEnc _ _ _ | secEnc _ _ _ | trkEnc _ _ | nicDec _ | addrDec _ | fieldDec _ =>
    obtain ⟨a, rfl⟩ := exec_function_eq_next rfl h
    exact { hs with }
  | stpSample x =>
    obtain ⟨a, rfl⟩ := execStpSample_eq_next h
    exact { hs.sampleHead x with }
  | stpForce T x =>
    obtain rfl := answer_eq_next.1 h
    exact { hs with head := .force (of_decide_eq_true hi) s.head x }
  | rdClk =>
    obtain ⟨-, rfl⟩ | ⟨hrun, -, level, rfl⟩ := execRdClk_eq_next h
    · exact { hs with }
    · exact { hs with rd := (hs.rd.output hrun level).advance hs.cache }
  | rdStop =>
    obtain rfl := answer_eq_next.1 h
    exact { hs with rd := hs.rd.stop }
  | rdRestore =>
    obtain rfl := answer_eq_next.1 h
    exact { hs with rd := hs.rd.restore hs.cache }
  | rdStart => exact hs.startReader h
  | evSel level =>
    obtain rfl := answer_eq_next.1 h
    exact { hs with rd := hs.rd.select level }
  | wcEnter =>
    obtain ⟨-, rfl⟩ | ⟨-, rfl⟩ := execWcEnter_eq_next h
    · exact { hs with }
    · exact { hs with rd := { hs.rd.stop with }, wc := hs.wc.entered hs.rd.byte _ }
  | wcEdge =>
    obtain rfl | ⟨-, -, rfl⟩ := execWcEdge_eq_next h
    · exact { hs with }
    · exact { hs with rd := { hs.rd with }, wc := hs.wc.append true }
  | wcTick =>
    obtain rfl | ⟨-, -, rfl⟩ := execWcTick_eq_next h
    · exact { hs with }
    · exact { hs with wc := hs.wc.append false }
  | wcExit => exact hs.wcExit h
  | wcAppend b =>
    obtain rfl := answer_eq_next.1 h
    exact { hs with wc := hs.wc.append b }
  | wcComplete =>
    have hcache := completeField_cache_sound h hs.cache
    obtain ⟨c, a, rfl, -⟩ := completeField_frame h
    exact { hs with cache := hcache }
  | tcSelect T => exact hs.select h
  | tcReconcile => exact hs.reconcile (execTcReconcile_eq_next h).2
  | tcRebuild T => exact hs.rebuild (execTcRebuild_eq_next h).2
  | facTick x =>
    obtain ⟨-, rfl⟩ | ⟨-, u, rfl | hu, rfl⟩ := execFacTick_eq_next h
    · exact { hs.sampleHead x with }
    · exact { hs.sampleHead x with }
    · exact { (hs.sampleHead x).select hu with }
  | facLoad bytes =>
    obtain ⟨-, rfl⟩ := execFacLoad_eq_next h
    have hbringup : s.params.bringup.val ≤ 34 := by omega
    exact { hs with
      img := imageOf_wf bytes
      head := .force hbringup s.head _
      cache := { data := hs.cache.data, track := nofun, dirty := nofun } }
  | dbgRdsec n sec =>
    obtain ⟨a, rfl⟩ := execDbgRdsec_eq_next h
    exact { hs with }
  | dbgWrsec n sec data =>
    obtain ⟨-, ⟨-, rfl⟩ | ⟨-, hfit, rfl⟩⟩ := execDbgWrsec_eq_next h
    · exact { hs with }
    · exact { hs with img := Memory.wf_writeList hs.img data hfit }
  | dbgSettrk T x =>
    obtain ⟨-, ⟨-, rfl⟩ | ⟨hT, rfl⟩⟩ := execDbgSettrk_eq_next h
    · exact { hs with }
    · exact { hs with head := .force hT s.head x, rd := { hs.rd with } }
  | dbgDump =>
    obtain rfl := answer_eq_next.1 h
    exact { hs with }
  | reset =>
    cases h
    exact afterReset_sound _ _ _ _ _

theorem step_sound {s t : State} (hs : s.Sound) (h : step s = .next t) : t.Sound := by
  obtain ⟨-, rfl⟩ | ⟨i, rest, hd, hx⟩ := step_eq_next h
  · exact hs
  · have hpending : { s with pending := rest }.Sound := { hs with }
    exact exec_sound (decode_wellFormed hd) hpending hx

/-- Settles O55: the invariant is the soundness of the components, which every operation keeps. -/
theorem everyStepKeepsTheInvariant : Obligations.EveryStepKeepsTheInvariant := by
  unfold Obligations.EveryStepKeepsTheInvariant
  intro s t hs h
  exact t.inv_iff_sound.2 (step_sound (s.inv_iff_sound.1 hs) h)

/-- Settles O54: the soundness of every reset state, of which State.reset is one; its capture engine is idle. -/
theorem resetMeetsTheInvariant : Obligations.ResetMeetsTheInvariant := by
  unfold Obligations.ResetMeetsTheInvariant
  exact ⟨(State.inv_iff_sound _).2 (afterReset_sound _ _ _ _ _), ⟨fun h => absurd rfl h, nofun⟩, rfl, rfl⟩

end Sys2Proof.Machine
end

section
/-! PROOFS. The writers of the head, the parameters and the dirty bit. -/

namespace Sys2Proof.Machine

/-- Settles O60, operation by operation, from what each can do when it answers a next state. -/
theorem headAndParametersHaveOnlyTheirWriters : Obligations.HeadAndParametersHaveOnlyTheirWriters := by
  unfold Obligations.HeadAndParametersHaveOnlyTheirWriters
  intro i s t h
  cases i with
  | nibEnc _ | nibDec _ | n44Enc _ | n44Dec _ _ | pairEnc _ _ _ | pairDec _ | ilvP2l _ | ilvL2p _ | nicEnc _
  | addrEnc _ _ _ | secEnc _ _ _ | trkEnc _ _ | nicDec _ | addrDec _ | fieldDec _ =>
    obtain ⟨a, rfl⟩ := exec_function_eq_next rfl h
    simp
  | stpSample x =>
    obtain ⟨a, rfl⟩ := execStpSample_eq_next h
    simp
  | stpForce T x =>
    obtain rfl := answer_eq_next.1 h
    simp
  | rdClk =>
    obtain ⟨-, rfl⟩ | ⟨-, -, level, rfl⟩ := execRdClk_eq_next h <;> simp
  | rdStop | rdRestore | evSel _ | wcAppend _ | dbgDump =>
    obtain rfl := answer_eq_next.1 h
    simp
  | rdStart =>
    obtain ⟨hp, hh, hc⟩ := startReader_frame h
    simp [hp, hh, hc]
  | wcEnter =>
    obtain ⟨-, rfl⟩ | ⟨-, rfl⟩ := execWcEnter_eq_next h <;> simp
  | wcEdge =>
    obtain rfl | ⟨-, -, rfl⟩ := execWcEdge_eq_next h <;> simp
  | wcTick =>
    obtain rfl | ⟨-, -, rfl⟩ := execWcTick_eq_next h <;> simp
  | wcExit =>
    obtain ⟨-, rfl⟩ | ⟨-, u, hu, rfl⟩ := execWcExit_eq_next h
    · simp
    · obtain ⟨c, a, rfl, hd⟩ := completeField_frame hu
      simpa [State.flushing] using hd
  | wcComplete =>
    obtain ⟨c, a, rfl, hd⟩ := completeField_frame h
    simpa using hd
  | tcSelect T =>
    obtain ⟨hp, hh, hd⟩ := select_frame h
    simpa [hp, hh] using hd
  | tcReconcile =>
    obtain ⟨-, h⟩ := execTcReconcile_eq_next h
    obtain ⟨hp, hh, hc⟩ := reconcile_frame h
    simp [hp, hh, hc]
  | tcRebuild T =>
    obtain ⟨-, h⟩ := execTcRebuild_eq_next h
    obtain ⟨hp, hh, hd⟩ := rebuild_frame h
    simp [hp, hh, hd]
  | facTick x =>
    obtain ⟨-, rfl⟩ | ⟨-, u, rfl | hu, rfl⟩ := execFacTick_eq_next h
    · simp
    · simp
    · obtain ⟨hp, -, hd⟩ := select_frame hu
      simpa [hp] using hd
  | facLoad bytes =>
    obtain ⟨-, rfl⟩ := execFacLoad_eq_next h
    simp
  | dbgRdsec n sec =>
    obtain ⟨a, rfl⟩ := execDbgRdsec_eq_next h
    simp
  | dbgWrsec n sec data =>
    obtain ⟨-, ⟨-, rfl⟩ | ⟨-, -, rfl⟩⟩ := execDbgWrsec_eq_next h <;> simp
  | dbgSettrk T x =>
    obtain ⟨-, ⟨-, rfl⟩ | ⟨-, rfl⟩⟩ := execDbgSettrk_eq_next h <;> simp
  | reset =>
    cases h
    simp [State.afterReset, Cache.reset]

end Sys2Proof.Machine
end

section
/-! PROOFS. Before the first FAC.LOAD. -/

namespace Sys2Proof.Machine

theorem rebuild_unloaded {s : State} (hl : s.imgLoaded = false) (T : Nat) : rebuild T s = .refused (.noValue .img) := by
  simp [rebuild, hl]

/-- Without an image a clean, INVALID cache can not be given a track (R144, R146, R177). -/
theorem select_unloaded {s : State} (hl : s.imgLoaded = false) (hc : s.cache.track = none)
    (hd : s.cache.dirty = false) (hw : s.wc.state = .idle) {T : Nat} (hT : T ≤ 34) :
    select T s = .refused (.noValue .img) := by
  simp [select, changeTrack, Capture.armed, rebuild_unloaded hl, hc, hd, hw, hT]

theorem execFacTick_unloaded {s : State} (hl : s.imgLoaded = false) (hc : s.cache.track = none)
    (hd : s.cache.dirty = false) (hw : s.wc.state = .idle) (hh : s.head.Ok) (sample : BitVec 4) :
    execFacTick sample s = .refused (.noValue .img) := by
  obtain ⟨hphys, hlog⟩ := hh.sampleHead sample
  have hselect : select (sampleHead sample s).head.log (sampleHead sample s) = .refused (.noValue .img) :=
    select_unloaded (by simpa) (by simpa) (by simpa) (by simpa) (by omega)
  simp [execFacTick, Capture.armed, hselect, hc, hw]

/-- Settles O52: each of the four operations reaches its read of an image that holds no value. -/
theorem imageReadsRefusedBeforeTheFirstLoad : Obligations.ImageReadsRefusedBeforeTheFirstLoad := by
  unfold Obligations.ImageReadsRefusedBeforeTheFirstLoad
  intro s T t sec sample hl hc hd hw hh ht hsec hT
  refine ⟨?_, ?_, select_unloaded hl hc hd hw hT, execFacTick_unloaded hl hc hd hw hh sample⟩
  · change execDbgRdsec t sec s = _
    simp [execDbgRdsec, inRange, readBlock, State.holdsValue, ht, hsec, hl]
  · change execTcRebuild T s = _
    simp [execTcRebuild, Capture.armed, hw, rebuild_unloaded hl]

end Sys2Proof.Machine
end

section
/-! PROOFS. What a change of track leaves alone of the image, the reader and the capture engine, and what a bit cell
and an appended bit leave alone of their own registers. -/

namespace Sys2Proof.Machine

/-! ### The capture engine and the image under the shared operations -/

theorem startReader_keeps {s t : State} (h : startReader s = .next t) : t.wc = s.wc ∧ t.img = s.img := by
  obtain ⟨-, -, -, rfl⟩ | ⟨-, rfl⟩ := startReader_eq_next h <;> exact ⟨rfl, rfl⟩

theorem reconcile_keeps {s t : State} (h : reconcile s = .next t) : t.wc = s.wc ∧ t.rd = s.rd := by
  obtain ⟨T, -, -, -, rfl⟩ := reconcile_eq_next h
  exact ⟨rfl, rfl⟩

theorem rebuild_keeps {T : Nat} {s t : State} (h : rebuild T s = .next t) :
    t.wc = s.wc ∧ t.img = s.img ∧ t.rd = s.rd := by
  obtain ⟨-, -, rfl⟩ := rebuild_eq_next h
  exact ⟨rfl, rfl, rfl⟩

theorem changeTrack_wc {T : Nat} {s t : State} (h : changeTrack T s = .next t) : t.wc = s.wc := by
  obtain ⟨u, v, hu, hv, ht⟩ := changeTrack_eq_next h
  have hsu : u.wc = s.wc := by
    split at hu
    · exact (reconcile_keeps hu).1
    · cases hu
      rfl
  calc t.wc = v.wc := (startReader_keeps ht).1
    _ = u.wc := (rebuild_keeps hv).1
    _ = s.wc := hsu

/-- TC.SELECT runs in Idle only and leaves the capture engine alone (R55, R144). -/
theorem select_wc {T : Nat} {s t : State} (h : select T s = .next t) : s.wc.state = .idle ∧ t.wc = s.wc := by
  obtain ⟨hidle, ⟨-, rfl⟩ | ⟨-, -, rfl⟩ | ⟨-, -, hc⟩⟩ := select_eq_next h
  · exact ⟨hidle, rfl⟩
  · exact ⟨hidle, rfl⟩
  · exact ⟨hidle, changeTrack_wc hc⟩

/-! ### Registers one operation keeps -/

@[simp] theorem refresh_run (c : Cache) (r : Reader) : (refresh c r).run = r.run := by
  unfold refresh
  split <;> rfl

@[simp] theorem Reader.advance_run (r : Reader) (c : Cache) : (r.advance c).run = r.run := by
  unfold Reader.advance
  split
  · split
    · exact refresh_run c _
    · rfl
  · rfl

/-- What a byte completion or an appended bit leaves alone of the capture registers (R134 to R137). -/
structure Capture.SameMode (wc wc' : Capture) : Prop where
  state : wc'.state = wc.state
  timer : wc'.timer = wc.timer

theorem Capture.completeByte_sameMode (wc : Capture) (P : Params) (b : Byte) : wc.SameMode (wc.completeByte P b) := by
  unfold Capture.completeByte
  split
  · split <;> exact ⟨rfl, rfl⟩
  · split
    · dsimp only
      split <;> exact ⟨rfl, rfl⟩
    · exact ⟨rfl, rfl⟩

theorem Capture.shiftBit_sameMode (wc : Capture) (P : Params) (b : Bool) : wc.SameMode (wc.shiftBit P b) := by
  unfold Capture.shiftBit
  split
  · obtain ⟨hstate, htimer⟩ :=
      Capture.completeByte_sameMode { wc with shift := shiftIn wc.shift b, nbits := 0 } P (shiftIn wc.shift b)
    exact ⟨hstate, htimer⟩
  · exact ⟨rfl, rfl⟩

/-- An appended bit changes neither `wc.state` nor `wc.timer` (R134). -/
theorem Capture.append_sameMode (wc : Capture) (P : Params) (b : Bool) : wc.SameMode (wc.append P b) := by
  unfold Capture.append
  dsimp only
  split
  · split
    · exact ⟨rfl, rfl⟩
    · obtain ⟨hstate, htimer⟩ := Capture.shiftBit_sameMode { wc with cnt := wc.cnt + 1 } P b
      exact ⟨hstate, htimer⟩
  · exact wc.shiftBit_sameMode P b

/-- An accepted WC.ENTER leaves CAP alone (R129). -/
@[simp] theorem Capture.entered_buf (wc : Capture) (P : Params) (pos : Nat) (found : Option (Fin 16)) :
    (wc.entered P pos found).buf = wc.buf := by
  cases found <;> rfl

end Sys2Proof.Machine
end

section
/-! PROOFS. The reader and the capture engine exclude each other between operations. -/

namespace Sys2Proof.Machine

/-- Under the invariant the timer is armed in Sampling only, so `wc.state` alone decides the exclusivity (R33, R54). -/
theorem State.Sound.lineExclusive_iff {s : State} (hs : s.Sound) :
    s.LineExclusive ↔ (s.wc.state = .idle ∨ s.rd.run = false) := by
  have htimer : s.wc.timer = true → s.wc.state ≠ .idle := fun h => by simp [hs.wc.timer.1 h]
  constructor
  · exact fun h => or_iff_not_imp_left.2 h.1
  · exact fun h => ⟨h.resolve_left, fun ht => h.resolve_left (htimer ht)⟩

/-- An operation of the agents ends in Idle, or with the reader stopped, or leaves both registers as they were (R54). -/
theorem exec_line {i : Instr} {s t : State} (hi : i.opClass ≠ .internal) (h : exec i s = .next t) :
    t.wc.state = .idle ∨ t.rd.run = false ∨ (t.wc.state = s.wc.state ∧ t.rd.run = s.rd.run) := by
  cases i with
  | stpForce _ _ | rdStop | rdRestore | rdStart | wcAppend _ | wcComplete | tcReconcile | tcRebuild _ =>
    exact absurd rfl hi
  | nibEnc _ | nibDec _ | n44Enc _ | n44Dec _ _ | pairEnc _ _ _ | pairDec _ | ilvP2l _ | ilvL2p _ | nicEnc _
  | addrEnc _ _ _ | secEnc _ _ _ | trkEnc _ _ | nicDec _ | addrDec _ | fieldDec _ =>
    obtain ⟨a, rfl⟩ := exec_function_eq_next rfl h
    exact .inr (.inr ⟨rfl, rfl⟩)
  | stpSample x =>
    obtain ⟨a, rfl⟩ := execStpSample_eq_next h
    exact .inr (.inr (by simp))
  | rdClk =>
    obtain ⟨-, rfl⟩ | ⟨-, -, level, rfl⟩ := execRdClk_eq_next h
    · exact .inr (.inr ⟨rfl, rfl⟩)
    · exact .inr (.inr ⟨rfl, s.rd.advance_run s.cache⟩)
  | evSel _ | dbgDump =>
    obtain rfl := answer_eq_next.1 h
    exact .inr (.inr ⟨rfl, rfl⟩)
  | wcEnter =>
    obtain ⟨-, rfl⟩ | ⟨-, rfl⟩ := execWcEnter_eq_next h
    · exact .inr (.inr ⟨rfl, rfl⟩)
    · exact .inr (.inl rfl)
  | wcEdge =>
    obtain rfl | ⟨-, -, rfl⟩ := execWcEdge_eq_next h
    · exact .inr (.inr ⟨rfl, rfl⟩)
    · exact .inr (.inr ⟨(s.wc.append_sameMode s.params true).state, rfl⟩)
  | wcTick =>
    obtain rfl | ⟨-, -, rfl⟩ := execWcTick_eq_next h
    · exact .inr (.inr ⟨rfl, rfl⟩)
    · exact .inr (.inr ⟨(s.wc.append_sameMode s.params false).state, rfl⟩)
  | wcExit =>
    obtain ⟨-, rfl⟩ | ⟨-, u, -, rfl⟩ := execWcExit_eq_next h
    · exact .inr (.inr ⟨rfl, rfl⟩)
    · exact .inl rfl
  | tcSelect T =>
    obtain ⟨hidle, hwc⟩ := select_wc h
    exact .inl (by rw [hwc, hidle])
  | facTick x =>
    obtain ⟨-, rfl⟩ | ⟨hidle, u, rfl | hu, rfl⟩ := execFacTick_eq_next h
    · exact .inr (.inr (by simp))
    · exact .inr (.inr (by simp))
    · exact .inl (by simpa [(select_wc hu).2] using hidle)
  | facLoad bytes =>
    obtain ⟨-, rfl⟩ := execFacLoad_eq_next h
    exact .inr (.inr ⟨rfl, rfl⟩)
  | dbgRdsec n sec =>
    obtain ⟨a, rfl⟩ := execDbgRdsec_eq_next h
    exact .inr (.inr ⟨rfl, rfl⟩)
  | dbgWrsec n sec data =>
    obtain ⟨hidle, ⟨-, rfl⟩ | ⟨-, -, rfl⟩⟩ := execDbgWrsec_eq_next h <;> exact .inl hidle
  | dbgSettrk T x =>
    obtain ⟨hidle, ⟨-, rfl⟩ | ⟨-, rfl⟩⟩ := execDbgSettrk_eq_next h <;> exact .inl hidle
  | reset =>
    cases h
    exact .inl rfl

/-- Settles O56: under the invariant `exec_line` is all that is left of the exclusivity. -/
theorem everyStepKeepsTheLineExclusive : Obligations.EveryStepKeepsTheLineExclusive := by
  unfold Obligations.EveryStepKeepsTheLineExclusive
  intro s t hinv hline hext h
  have hs := s.inv_iff_sound.1 hinv
  obtain ⟨-, rfl⟩ | ⟨i, rest, hd, hx⟩ := step_eq_next h
  · exact hline
  · refine (step_sound hs h).lineExclusive_iff.2 ?_
    obtain hidle | hstopped | ⟨hstate, hrun⟩ := exec_line (hext i rest hd) hx
    · exact .inl hidle
    · exact .inr hstopped
    · rw [hstate, hrun]
      exact hs.lineExclusive_iff.1 hline

end Sys2Proof.Machine
end

section
/-! PROOFS. The writers of the address spaces. -/

namespace Sys2Proof.Machine

/-- Settles O59, operation by operation, from what each can do when it answers a next state. -/
theorem spacesHaveOnlyTheirWriters : Obligations.SpacesHaveOnlyTheirWriters := by
  unfold Obligations.SpacesHaveOnlyTheirWriters
  intro i s t h hreset
  cases i with
  | nibEnc _ | nibDec _ | n44Enc _ | n44Dec _ _ | pairEnc _ _ _ | pairDec _ | ilvP2l _ | ilvL2p _ | nicEnc _
  | addrEnc _ _ _ | secEnc _ _ _ | trkEnc _ _ | nicDec _ | addrDec _ | fieldDec _ =>
    obtain ⟨a, rfl⟩ := exec_function_eq_next rfl h
    simp
  | stpSample x =>
    obtain ⟨a, rfl⟩ := execStpSample_eq_next h
    simp
  | rdClk =>
    obtain ⟨-, rfl⟩ | ⟨-, -, level, rfl⟩ := execRdClk_eq_next h <;> simp
  | stpForce _ _ | rdStop | rdRestore | evSel _ | wcAppend _ | dbgDump =>
    obtain rfl := answer_eq_next.1 h
    simp
  | rdStart =>
    obtain ⟨-, -, hcache⟩ := startReader_frame h
    obtain ⟨hwc, himg⟩ := startReader_keeps h
    simp [hcache, hwc, himg]
  | wcEnter =>
    obtain ⟨-, rfl⟩ | ⟨-, rfl⟩ := execWcEnter_eq_next h
    · simp
    · simp
  | wcEdge =>
    obtain rfl | ⟨-, -, rfl⟩ := execWcEdge_eq_next h <;> simp
  | wcTick =>
    obtain rfl | ⟨-, -, rfl⟩ := execWcTick_eq_next h <;> simp
  | wcExit =>
    obtain ⟨-, rfl⟩ | ⟨-, u, hu, rfl⟩ := execWcExit_eq_next h
    · simp
    · obtain ⟨c, a, rfl, -⟩ := completeField_frame hu
      simp [State.flushing]
  | wcComplete =>
    obtain ⟨c, a, rfl, -⟩ := completeField_frame h
    simp
  | tcSelect T =>
    obtain ⟨-, hwc⟩ := select_wc h
    simp [hwc]
  | tcReconcile =>
    obtain ⟨-, h⟩ := execTcReconcile_eq_next h
    obtain ⟨-, -, hcache⟩ := reconcile_frame h
    obtain ⟨hwc, hrd⟩ := reconcile_keeps h
    simp [hcache, hwc, hrd]
  | tcRebuild T =>
    obtain ⟨-, h⟩ := execTcRebuild_eq_next h
    obtain ⟨hwc, himg, hrd⟩ := rebuild_keeps h
    simp [hwc, himg, hrd]
  | facTick x =>
    obtain ⟨-, rfl⟩ | ⟨-, u, rfl | hu, rfl⟩ := execFacTick_eq_next h
    · simp
    · simp
    · obtain ⟨-, hwc⟩ := select_wc hu
      simp [hwc]
  | facLoad bytes =>
    obtain ⟨-, rfl⟩ := execFacLoad_eq_next h
    simp
  | dbgRdsec n sec =>
    obtain ⟨a, rfl⟩ := execDbgRdsec_eq_next h
    simp
  | dbgWrsec n sec data =>
    obtain ⟨-, ⟨-, rfl⟩ | ⟨-, -, rfl⟩⟩ := execDbgWrsec_eq_next h <;> simp
  | dbgSettrk T x =>
    obtain ⟨-, ⟨-, rfl⟩ | ⟨-, rfl⟩⟩ := execDbgSettrk_eq_next h <;> simp
  | reset => exact absurd rfl hreset

end Sys2Proof.Machine
end

section
/-! PROOFS. A step from a sound state ends in no fault. -/

namespace Sys2Proof.Machine

/-! ### How safe outcomes compose -/

theorem safe_next (s : State) : Safe (.next s) := fun _ => nofun

theorem safe_refused (r : Refusal) : Safe (.refused r) := fun _ => nofun

theorem safe_answer (a : Answer) (s : State) : Safe (answer a s) := safe_next _

theorem Safe.andThen {o : Out} {f : State → Out} (ho : Safe o) (hf : ∀ u, o = .next u → Safe (f u)) :
    Safe (andThen o f) := by
  intro r h
  obtain h | ⟨u, hu, h⟩ := andThen_eq_fault.1 h
  · exact ho r h
  · exact hf u hu r h

/-- The guard of R55 refuses or lets the operation through. -/
theorem Safe.guarded {c : Prop} [Decidable c] {o : Out} (r : Refusal) (ho : Safe o) :
    Safe (if c then .refused r else o) := by
  split
  · exact safe_refused r
  · exact ho

/-! ### Accesses inside an address space -/

theorem readBlock_safe {sp : Space} {a n : Nat} (hfit : a + n ≤ sp.size) (s : State) {k : List Byte → Out}
    (hk : ∀ bytes, Safe (k bytes)) : Safe (readBlock s sp a n k) := by
  unfold readBlock
  rw [if_pos hfit]
  exact (hk _).guarded _

theorem writeBlock_safe {sp : Space} {a : Nat} {bytes : List Byte} (hfit : a + bytes.length ≤ sp.size) (s : State) :
    Safe (writeBlock s sp a bytes) := by
  rw [writeBlock, if_pos hfit]
  exact safe_next _

/-- The sectors of a track 0..34 lie inside IMG (R41, R45). -/
theorem sectorAddr_track_le {T : Nat} (hT : T ≤ 34) : sectorAddr T 16 ≤ Space.img.size := by
  rw [sectorAddr, size_img]
  omega

/-- A sector that passes the test of E_RANGE lies inside IMG (R41, R160). -/
theorem sectorAddr_add_le {t sec : Nat} (h : inRange t sec = true) : sectorAddr t sec + 256 ≤ Space.img.size := by
  have hr : t ≤ 34 ∧ sec ≤ 15 := by simpa [inRange] using h
  rw [sectorAddr, size_img]
  omega

/-- An installed field lies inside its slot (R42, R45). -/
theorem fieldAddr_add_le {p : Nat} (hp : p < 16) (len : Nat) : fieldAddr p + min len 349 ≤ Space.enc.size := by
  rw [fieldAddr, size_enc]
  omega

/-! ### The shared operations -/

theorem startReader_safe (s : State) : Safe (startReader s) := by
  unfold startReader
  split
  · split
    · exact safe_answer _ _
    · exact safe_refused _
  · exact safe_answer _ _

theorem completeField_safe {s : State} (hp : s.wc.phys < 16) : Safe (completeField s) := by
  unfold completeField
  split
  · exact safe_answer _ _
  · refine (writeBlock_safe ?_ s).andThen fun u _ => safe_answer _ _
    rw [Memory.block_length]
    exact fieldAddr_add_le hp _

theorem reconcile_safe {s : State} {loaded : Bool} (hc : s.cache.Sound loaded) : Safe (reconcile s) := by
  unfold reconcile
  split
  · exact safe_refused _
  · rename_i T hT
    rw [if_pos (sectorAddr_track_le (hc.track T hT).1)]
    exact (safe_answer _ _).guarded _

theorem rebuild_safe {T : Nat} (hT : T ≤ 34) (s : State) : Safe (rebuild T s) := by
  rw [rebuild, if_pos (sectorAddr_track_le hT)]
  exact (safe_answer _ _).guarded _

theorem changeTrack_safe {T : Nat} (hT : T ≤ 34) {s : State} {loaded : Bool} (hc : s.cache.Sound loaded) :
    Safe (changeTrack T s) := by
  have hreconcile : Safe (if s.cache.dirty then reconcile s else .next s) := by
    split
    · exact reconcile_safe hc
    · exact safe_next s
  exact hreconcile.andThen fun u _ => (rebuild_safe hT u).andThen fun v _ => startReader_safe _

/-- TC.SELECT tests the range before it touches the image (R144, R160). -/
theorem select_safe (T : Nat) {s : State} {loaded : Bool} (hc : s.cache.Sound loaded) : Safe (select T s) := by
  refine Safe.guarded _ ?_
  split
  · exact safe_answer _ _
  · split
    · exact safe_answer _ _
    · exact changeTrack_safe (by omega) hc

/-! ### Every operation and every step -/

theorem data_length_of_wellFormed {t sec : Nat} {data : List Byte}
    (h : (Instr.dbgWrsec t sec data).wellFormed = true) : data.length = 256 := by
  simp only [Instr.wellFormed, Bool.and_eq_true, beq_iff_eq] at h
  exact h.2

/-- The functions of R79 touch no address space of the state; TRK.ENC reads its own operand inside IMG's size. -/
theorem exec_function_safe {i : Instr} (hi : i.opClass = .function) (hwf : i.wellFormed = true) (s : State) :
    Safe (exec i s) := by
  cases i with
  | trkEnc img T =>
    change Safe (execTrkEnc img T s)
    have hT : T ≤ 34 := by
      simp only [Instr.wellFormed, Bool.and_eq_true, decide_eq_true_eq] at hwf
      exact hwf.1
    rw [execTrkEnc, if_pos (sectorAddr_track_le hT)]
    exact safe_answer _ _
  | nicDec enc =>
    change Safe (execNicDec enc s)
    unfold execNicDec
    split <;> exact safe_answer _ _
  | fieldDec d =>
    change Safe (execFieldDec d s)
    unfold execFieldDec
    split <;> exact safe_answer _ _
  | nibEnc _ | nibDec _ | n44Enc _ | n44Dec _ _ | pairEnc _ _ _ | pairDec _ | ilvP2l _ | ilvL2p _ | nicEnc _
  | addrEnc _ _ _ | secEnc _ _ _ | addrDec _ => exact safe_answer _ _
  | _ => cases hi

theorem execRdClk_safe {s : State} (hbyte : s.rd.byte < 6656) : Safe (execRdClk s) := by
  unfold execRdClk
  split
  · exact safe_answer _ _
  · exact readBlock_safe hbyte s fun _ => safe_answer _ _

theorem execWcEnter_safe (s : State) : Safe (execWcEnter s) := by
  unfold execWcEnter
  split <;> exact safe_answer _ _

theorem execWcEdge_safe (s : State) : Safe (execWcEdge s) := by
  unfold execWcEdge
  split
  · exact safe_answer _ _
  · split <;> exact safe_answer _ _

theorem execWcTick_safe (s : State) : Safe (execWcTick s) := by
  unfold execWcTick
  split <;> exact safe_answer _ _

theorem execWcExit_safe {s : State} (hp : s.wc.phys < 16) : Safe (execWcExit s) := by
  unfold execWcExit
  split
  · exact safe_answer _ _
  · exact Safe.andThen (completeField_safe hp) fun u _ => safe_next _

theorem execFacTick_safe {s : State} (hs : s.Sound) (sample : BitVec 4) : Safe (execFacTick sample s) := by
  have hcache := (hs.sampleHead sample).cache
  unfold execFacTick
  dsimp only
  split
  · exact safe_answer _ _
  · refine Safe.andThen ?_ fun u _ => safe_answer _ _
    split
    · exact safe_next _
    · exact select_safe _ hcache

theorem execDbgRdsec_safe (t sec : Nat) (s : State) : Safe (execDbgRdsec t sec s) := by
  unfold execDbgRdsec
  split
  · exact safe_answer _ _
  · exact readBlock_safe (sectorAddr_add_le (Bool.of_not_eq_false ‹_›)) s fun _ => safe_answer _ _

theorem execDbgWrsec_safe (t sec : Nat) {data : List Byte} (hlen : data.length = 256) (s : State) :
    Safe (execDbgWrsec t sec data s) := by
  refine Safe.guarded _ ?_
  split
  · exact safe_answer _ _
  · refine (writeBlock_safe ?_ s).andThen fun u _ => safe_answer _ _
    rw [hlen]
    exact sectorAddr_add_le (Bool.of_not_eq_false ‹_›)

theorem execDbgSettrk_safe (T : Nat) (sample : BitVec 4) (s : State) : Safe (execDbgSettrk T sample s) := by
  refine Safe.guarded _ ?_
  split <;> exact safe_answer _ _

/-- A well-formed operation on a sound state ends in no fault (R45, R50). -/
theorem exec_safe {i : Instr} {s : State} (hi : i.wellFormed = true) (hs : s.Sound) : Safe (exec i s) := by
  cases i with
  | nibEnc _ | nibDec _ | n44Enc _ | n44Dec _ _ | pairEnc _ _ _ | pairDec _ | ilvP2l _ | ilvL2p _ | nicEnc _
  | addrEnc _ _ _ | secEnc _ _ _ | trkEnc _ _ | nicDec _ | addrDec _ | fieldDec _ => exact exec_function_safe rfl hi s
  | stpSample x =>
    change Safe (execStpSample x s)
    unfold execStpSample
    split <;> exact safe_answer _ _
  | stpForce _ _ | rdStop | rdRestore | evSel _ | wcAppend _ | dbgDump => exact safe_answer _ _
  | rdClk => exact execRdClk_safe hs.rd.byte
  | rdStart => exact startReader_safe s
  | wcEnter => exact execWcEnter_safe s
  | wcEdge => exact execWcEdge_safe s
  | wcTick => exact execWcTick_safe s
  | wcExit => exact execWcExit_safe hs.wc.phys
  | wcComplete => exact completeField_safe hs.wc.phys
  | tcSelect T => exact select_safe T hs.cache
  | tcReconcile => exact (reconcile_safe hs.cache).guarded _
  | tcRebuild T => exact (rebuild_safe (of_decide_eq_true hi) s).guarded _
  | facTick x => exact execFacTick_safe hs x
  | facLoad bytes => exact (safe_answer _ _).guarded _
  | dbgRdsec n sec => exact execDbgRdsec_safe n sec s
  | dbgWrsec n sec data => exact execDbgWrsec_safe n sec (data_length_of_wellFormed hi) s
  | dbgSettrk T x => exact execDbgSettrk_safe T x s
  | reset => exact safe_next _

/-- Settles O57: whatever the decoder gives is well formed, and a well-formed operation is safe on a sound state. -/
theorem noStepLeavesTheAddressSpaces : Obligations.NoStepLeavesTheAddressSpaces := by
  unfold Obligations.NoStepLeavesTheAddressSpaces
  intro s hinv
  have hs := s.inv_iff_sound.1 hinv
  unfold step
  split
  · exact safe_next s
  · unfold stepNext fetch
    split
    · rename_i i rest hd
      have hpending : { s with pending := rest }.Sound := { hs with }
      exact exec_safe (decode_wellFormed hd) hpending
    · exact safe_refused _

end Sys2Proof.Machine
end

section
/-! PROOFS. A clean cache is the encoding of its track of the image. -/

namespace Sys2Proof.Machine

/-! ### The encoding of a track reads the sectors of that track alone -/

/-- The encoding of a track depends on the 16 sectors of the track only (R41, R101). -/
theorem trkEnc_congr (P : Params) {img img' : Memory} {T : Nat}
    (h : ∀ l : Fin 16, img'.block (sectorAddr T l.val) 256 = img.block (sectorAddr T l.val) 256) :
    trkEnc P img' T = trkEnc P img T := by
  unfold trkEnc
  exact List.flatMap_congr fun p _ => by rw [h]

/-- A sector written to another track is in no sector of track `T` (R41). -/
theorem block_writeList_other_track {img : Memory} (himg : img.wf 143360 = true) {n sec T : Nat} {data : List Byte}
    (hsec : sec ≤ 15) (hlen : data.length = 256) (hfit : sectorAddr n sec + data.length ≤ 143360) (hT : T ≠ n)
    (l : Fin 16) :
    (img.writeList (sectorAddr n sec) data).block (sectorAddr T l.val) 256 = img.block (sectorAddr T l.val) 256 := by
  refine Memory.block_congr fun k hk => ?_
  rw [Memory.read_writeList himg data hfit, if_neg]
  simp only [sectorAddr]
  omega

/-! ### Which changes keep the mirror -/

/-- A cache that is dirty or has an INVALID tag mirrors vacuously (R60). -/
theorem State.cacheMirrorsImage_of_dirty {s : State} (h : s.cache.dirty = true) : s.CacheMirrorsImage :=
  fun hclean => absurd h (by simp [hclean])

theorem State.cacheMirrorsImage_of_invalid {s : State} (h : s.cache.track = none) : s.CacheMirrorsImage :=
  fun _ t ht => absurd ht (by simp [h])

/-- The mirror is about the cache, the image and the parameters only. -/
theorem State.CacheMirrorsImage.congr {s t : State} (hm : s.CacheMirrorsImage) (hcache : t.cache = s.cache)
    (himg : t.img = s.img) (hparams : t.params = s.params) : t.CacheMirrorsImage := by
  intro hclean T hT
  rw [hcache] at hclean hT ⊢
  rw [himg, hparams]
  exact hm hclean T hT

/-- A change of track ends with the cache rebuilt from the image as it then is, whatever stood before (R144, R146). -/
theorem changeTrack_cacheMirrorsImage {T : Nat} {s t : State} (h : changeTrack T s = .next t) :
    t.CacheMirrorsImage := by
  obtain ⟨u, v, -, hv, ht⟩ := changeTrack_eq_next h
  obtain ⟨-, -, rfl⟩ := rebuild_eq_next hv
  obtain ⟨hparams, -, hcache⟩ := startReader_frame ht
  obtain ⟨-, himg⟩ := startReader_keeps ht
  refine State.CacheMirrorsImage.congr (fun _ T' hT' => ?_) hcache himg hparams
  cases hT'
  rfl

theorem State.CacheMirrorsImage.select {T : Nat} {s t : State} (hm : s.CacheMirrorsImage) (h : select T s = .next t) :
    t.CacheMirrorsImage := by
  obtain ⟨-, ⟨-, rfl⟩ | ⟨-, -, rfl⟩ | ⟨-, -, hc⟩⟩ := select_eq_next h
  · exact hm
  · exact hm
  · exact changeTrack_cacheMirrorsImage hc

/-- Field completion leaves the cache alone or marks it dirty (R139, R140). -/
theorem State.CacheMirrorsImage.completeField {s t : State} (hm : s.CacheMirrorsImage)
    (h : completeField s = .next t) : t.CacheMirrorsImage := by
  obtain ⟨e, -, rfl⟩ | ⟨-, -, rfl⟩ := completeField_eq_next h
  · exact hm
  · exact State.cacheMirrorsImage_of_dirty rfl

theorem State.CacheMirrorsImage.sampleHead {s : State} (hm : s.CacheMirrorsImage) (sample : BitVec 4) :
    (sampleHead sample s).CacheMirrorsImage := hm.congr (by simp) (by simp) (by simp)

/-- DBG.WRSEC of a track that is not the cached one (R60, R151). -/
theorem State.CacheMirrorsImage.dbgWrsec {s t : State} (hm : s.CacheMirrorsImage) (himg : s.img.wf 143360 = true)
    {n sec : Nat} {data : List Byte} (hlen : data.length = 256) (hn : s.cache.track ≠ some n)
    (h : execDbgWrsec n sec data s = .next t) : t.CacheMirrorsImage := by
  obtain ⟨-, ⟨-, rfl⟩ | ⟨hr, hfit, rfl⟩⟩ := execDbgWrsec_eq_next h
  · exact hm
  · have hsec : sec ≤ 15 := by
      simp only [inRange, Bool.and_eq_true, decide_eq_true_eq] at hr
      exact hr.2
    intro hclean T hT
    have hother : T ≠ n := fun hTn => hn (hTn ▸ hT)
    change s.cache.data = Memory.ofBytes 0 (trkEnc s.params (s.img.writeList (sectorAddr n sec) data) T)
    rw [trkEnc_congr s.params (block_writeList_other_track himg hsec hlen hfit hother)]
    exact hm hclean T hT

/-! ### Every operation and every step -/

/-- Every operation of the agents keeps the mirror, but a DBG.WRSEC of the cached track (R60). -/
theorem exec_cacheMirrorsImage {i : Instr} {s t : State} (hwf : i.wellFormed = true) (hi : i.opClass ≠ .internal)
    (hwrsec : ∀ n sec data, i = .dbgWrsec n sec data → s.cache.track ≠ some n) (himg : s.img.wf 143360 = true)
    (hm : s.CacheMirrorsImage) (h : exec i s = .next t) : t.CacheMirrorsImage := by
  cases i with
  | stpForce _ _ | rdStop | rdRestore | rdStart | wcAppend _ | wcComplete | tcReconcile | tcRebuild _ =>
    exact absurd rfl hi
  | nibEnc _ | nibDec _ | n44Enc _ | n44Dec _ _ | pairEnc _ _ _ | pairDec _ | ilvP2l _ | ilvL2p _ | nicEnc _
  | addrEnc _ _ _ | secEnc _ _ _ | trkEnc _ _ | nicDec _ | addrDec _ | fieldDec _ =>
    obtain ⟨a, rfl⟩ := exec_function_eq_next rfl h
    exact hm
  | stpSample x =>
    obtain ⟨a, rfl⟩ := execStpSample_eq_next h
    exact hm.sampleHead x
  | rdClk =>
    obtain ⟨-, rfl⟩ | ⟨-, -, level, rfl⟩ := execRdClk_eq_next h <;> exact hm
  | evSel _ | dbgDump =>
    obtain rfl := answer_eq_next.1 h
    exact hm
  | wcEnter =>
    obtain ⟨-, rfl⟩ | ⟨-, rfl⟩ := execWcEnter_eq_next h <;> exact hm
  | wcEdge =>
    obtain rfl | ⟨-, -, rfl⟩ := execWcEdge_eq_next h <;> exact hm
  | wcTick =>
    obtain rfl | ⟨-, -, rfl⟩ := execWcTick_eq_next h <;> exact hm
  | wcExit =>
    obtain ⟨-, rfl⟩ | ⟨-, u, hu, rfl⟩ := execWcExit_eq_next h
    · exact hm
    · have hrestored : (restoreReader s.flushing).CacheMirrorsImage := hm
      have hcompleted : u.CacheMirrorsImage := hrestored.completeField hu
      exact hcompleted
  | tcSelect T => exact hm.select h
  | facTick x =>
    obtain ⟨-, rfl⟩ | ⟨-, u, rfl | hu, rfl⟩ := execFacTick_eq_next h
    · exact hm.sampleHead x
    · exact hm.sampleHead x
    · have hselected : u.CacheMirrorsImage := (hm.sampleHead x).select hu
      exact hselected
  | facLoad bytes =>
    obtain ⟨-, rfl⟩ := execFacLoad_eq_next h
    exact State.cacheMirrorsImage_of_invalid rfl
  | dbgRdsec n sec =>
    obtain ⟨a, rfl⟩ := execDbgRdsec_eq_next h
    exact hm
  | dbgWrsec n sec data =>
    exact hm.dbgWrsec himg (data_length_of_wellFormed hwf) (hwrsec n sec data rfl) h
  | dbgSettrk T x =>
    obtain ⟨-, ⟨-, rfl⟩ | ⟨-, rfl⟩⟩ := execDbgSettrk_eq_next h <;> exact hm
  | reset =>
    cases h
    exact State.cacheMirrorsImage_of_invalid rfl

/-- Settles O58: a change of track rebuilds, a completion dirties, and a sector of another track is not encoded. -/
theorem cleanCacheMirrorsTheImage : Obligations.CleanCacheMirrorsTheImage := by
  unfold Obligations.CleanCacheMirrorsTheImage
  intro s t hinv hm hallowed h
  obtain ⟨-, rfl⟩ | ⟨i, rest, hd, hx⟩ := step_eq_next h
  · exact hm
  · obtain ⟨hi, hwrsec⟩ := hallowed i rest hd
    have hpending : { s with pending := rest }.CacheMirrorsImage := hm
    exact exec_cacheMirrorsImage (s := { s with pending := rest }) (decode_wellFormed hd) hi hwrsec
      (s.inv_iff_sound.1 hinv).img hpending hx

end Sys2Proof.Machine
end

section
/-! PROOFS. Feeding the capture engine whole bytes. -/

namespace Sys2Proof.Machine

/-! ### A run of bit events is a fold of WC.APPEND -/

/-- The capture registers after the bits of a run have been appended (R84, R134). -/
def Capture.appendBits (wc : Capture) (P : Params) (bits : List Bool) : Capture :=
  bits.foldl (fun wc b => wc.append P b) wc

@[simp] theorem Capture.appendBits_nil (wc : Capture) (P : Params) : wc.appendBits P [] = wc := rfl

@[simp] theorem Capture.appendBits_cons (wc : Capture) (P : Params) (b : Bool) (bits : List Bool) :
    wc.appendBits P (b :: bits) = (wc.append P b).appendBits P bits := rfl

theorem Capture.appendBits_append (wc : Capture) (P : Params) (bits bits' : List Bool) :
    wc.appendBits P (bits ++ bits') = (wc.appendBits P bits).appendBits P bits' := List.foldl_append

/-- An event of the write line, accepted in Sampling with the drive selected and the timer armed, appends its bit and
changes nothing the next one depends on (R132, R133). -/
theorem exec_bitEvent {s : State} (hstate : s.wc.state = .sampling) (htimer : s.wc.timer = true)
    (hsel : s.pin.selN = false) (b : Bool) :
    ∃ t, exec (if b then .wcEdge else .wcTick) s = .next t ∧ t.wc = s.wc.append s.params b ∧
      t.params = s.params ∧ t.pin.selN = false := by
  cases b with
  | true =>
    refine ⟨{ appendBit true { s with pin := { s.pin with wd := !s.pin.wd } } with answer := .ok },
      ?_, rfl, rfl, hsel⟩
    change execWcEdge s = _
    simp [execWcEdge, hstate, Pins.selected, hsel, answer]
  | false =>
    refine ⟨{ appendBit false s with answer := .ok }, ?_, rfl, rfl, hsel⟩
    change execWcTick s = _
    simp [execWcTick, hstate, htimer, answer]

/-- In Sampling, with the drive selected and the timer armed, `WC.BITS` appends its bits in order (R84). -/
theorem runOps_wcBits {s : State} (hstate : s.wc.state = .sampling) (htimer : s.wc.timer = true)
    (hsel : s.pin.selN = false) (bits : List Bool) :
    ∃ t, runOps (wcBits bits) s = .next t ∧ t.wc = s.wc.appendBits s.params bits := by
  induction bits generalizing s with
  | nil => exact ⟨s, rfl, rfl⟩
  | cons b bits ih =>
    obtain ⟨u, hu, hwc, hparams, husel⟩ := exec_bitEvent hstate htimer hsel b
    obtain ⟨hsame, htsame⟩ := s.wc.append_sameMode s.params b
    obtain ⟨t, ht, htwc⟩ := ih (s := u) (by rw [hwc, hsame, hstate]) (by rw [hwc, htsame, htimer]) husel
    refine ⟨t, ?_, ?_⟩
    · change andThen (exec (if b then .wcEdge else .wcTick) s) (runOps (wcBits bits)) = .next t
      rw [hu, andThen_next, ht]
    · rw [htwc, hwc, hparams, Capture.appendBits_cons]

/-! ### The bits of one byte -/

/-- No skip is pending: nothing is being counted, or the one bit has been discarded already (R135). -/
def Capture.NoSkip (wc : Capture) : Prop := wc.counting = false ∨ wc.skipDone = true

theorem Capture.NoSkip.append {wc : Capture} (h : wc.NoSkip) (P : Params) (b : Bool) :
    wc.append P b = wc.shiftBit P b := by
  unfold Capture.append
  rw [if_neg]
  rintro ⟨hcounting, hdone⟩
  obtain h | h := h
  · simp [hcounting] at h
  · simp [hdone] at h

/-- Fewer bits than complete the byte in progress only enter the shift register (R134). -/
theorem Capture.NoSkip.appendBits_of_lt {wc : Capture} (h : wc.NoSkip) (P : Params) {bits : List Bool}
    (hlt : wc.nbits + bits.length < 8) :
    wc.appendBits P bits = { wc with shift := bits.foldl shiftIn wc.shift, nbits := wc.nbits + bits.length } := by
  induction bits generalizing wc with
  | nil => rfl
  | cons b bits ih =>
    rw [List.length_cons] at hlt
    have hbit : wc.append P b = { wc with shift := shiftIn wc.shift b, nbits := wc.nbits + 1 } := by
      rw [h.append, Capture.shiftBit, if_neg (by omega)]
    have hrest : Capture.NoSkip { wc with shift := shiftIn wc.shift b, nbits := wc.nbits + 1 } := h
    rw [Capture.appendBits_cons, hbit, ih hrest (by dsimp only; omega), List.foldl_cons, List.length_cons]
    simp only [Nat.add_assoc, Nat.add_comm 1]

/-- The newest bit stands in bit 0, every older one a place higher (R29, R134). -/
theorem getLsbD_shiftIn (shift : Byte) (b : Bool) {i : Nat} (hi : i < 8) :
    (shiftIn shift b).getLsbD i = if i = 0 then b else shift.getLsbD (i - 1) := by
  cases i with
  | zero => cases b <;> simp [shiftIn]
  | succ i => cases b <;> simp [shiftIn, hi, BitVec.getLsbD_eq_getElem (show i < 8 by omega)]

/-- After the first `k` line bits of `b` the low `k` bits of the shift register are the high `k` bits of `b` (R46). -/
theorem getLsbD_foldl_shiftIn (shift b : Byte) {k i : Nat} (hk : k ≤ 8) (hi : i < k) :
    (((List.range k).map (lineBit b)).foldl shiftIn shift).getLsbD i = b.getLsbD (8 - k + i) := by
  induction k generalizing i with
  | zero => omega
  | succ k ih =>
    rw [List.range_succ, List.map_append, List.foldl_append, List.map_singleton, List.foldl_cons, List.foldl_nil,
      getLsbD_shiftIn _ _ (by omega)]
    cases i with
    | zero => rw [if_pos rfl, lineBit, show 8 - (k + 1) + 0 = 7 - k by omega]
    | succ i =>
      rw [if_neg (by omega), Nat.add_sub_cancel, ih (by omega) (by omega),
        show 8 - (k + 1) + (i + 1) = 8 - k + i by omega]

/-- Eight bits of a byte, bit 7 first, push out whatever the shift register held (R46, R134). -/
theorem foldl_shiftIn_lineBit (shift b : Byte) : ((List.range 8).map (lineBit b)).foldl shiftIn shift = b := by
  refine BitVec.eq_of_getLsbD_eq fun i hi => ?_
  rw [getLsbD_foldl_shiftIn shift b (Nat.le_refl 8) hi, Nat.sub_self, Nat.zero_add]

/-- The eight bits of a byte, fed at a byte boundary, complete that byte (R46, R134, R136). -/
theorem Capture.NoSkip.appendBits_byte {wc : Capture} (h : wc.NoSkip) (hn : wc.nbits = 0) (P : Params) (b : Byte) :
    wc.appendBits P ((List.range 8).map (lineBit b)) = { wc with shift := b, nbits := 0 }.completeByte P b := by
  have hsplit : (List.range 8).map (lineBit b) = (List.range 7).map (lineBit b) ++ [lineBit b 7] := rfl
  have hshift := foldl_shiftIn_lineBit wc.shift b
  rw [hsplit, List.foldl_append] at hshift
  have hseven := h.appendBits_of_lt P (bits := (List.range 7).map (lineBit b)) (by simp [hn])
  simp only [List.length_map, List.length_range, hn, Nat.zero_add] at hseven
  have hlast : Capture.NoSkip
      { wc with shift := ((List.range 7).map (lineBit b)).foldl shiftIn wc.shift, nbits := 7 } := h
  rw [hsplit, Capture.appendBits_append, hseven, Capture.appendBits_cons, Capture.appendBits_nil, hlast.append,
    Capture.shiftBit, if_pos rfl]
  exact congrArg (fun shift => { wc with shift := shift, nbits := 0 }.completeByte P shift) hshift

/-! ### Whole bytes -/

theorem lineBits_cons (b : Byte) (bytes : List Byte) :
    lineBits (b :: bytes) = (List.range 8).map (lineBit b) ++ lineBits bytes := rfl

/-- After synchronization, at a byte boundary with no skip pending, whole bytes are written to CAP one after the other
(R134, R137). -/
theorem Capture.NoSkip.appendBits_lineBits {wc : Capture} (h : wc.NoSkip) (hn : wc.nbits = 0)
    (hsynced : wc.synced = true) (P : Params) {bytes : List Byte} (hroom : wc.len + bytes.length ≤ 350) :
    ∃ shift, wc.appendBits P (lineBits bytes) =
      { wc with shift := shift, buf := wc.buf.writeList wc.len bytes, len := wc.len + bytes.length } := by
  induction bytes generalizing wc with
  | nil => exact ⟨wc.shift, rfl⟩
  | cons b bytes ih =>
    rw [List.length_cons] at hroom
    have hbyte : wc.appendBits P ((List.range 8).map (lineBit b)) =
        { wc with shift := b, buf := wc.buf.write wc.len b, len := wc.len + 1 } := by
      rw [h.appendBits_byte hn, Capture.completeByte, if_pos hsynced, if_pos (by dsimp only; omega), hn]
    have hrest : Capture.NoSkip { wc with shift := b, buf := wc.buf.write wc.len b, len := wc.len + 1 } := h
    obtain ⟨shift, heq⟩ := ih hrest hn hsynced (by dsimp only; omega)
    refine ⟨shift, ?_⟩
    rw [lineBits_cons, Capture.appendBits_append, hbyte, heq, List.length_cons]
    simp only [Nat.add_assoc, Nat.add_comm 1, Memory.writeList]

/-- Settles O34: the run is a fold of WC.APPEND, and that fold writes the bytes as one block. -/
theorem captureAppendsWholeBytes : Obligations.CaptureAppendsWholeBytes := by
  unfold Obligations.CaptureAppendsWholeBytes
  intro s bytes hwf hstate htimer hsel hsynced hn hskip hroom
  obtain ⟨t, ht, hwc⟩ := runOps_wcBits hstate htimer hsel (lineBits bytes)
  obtain ⟨shift, heq⟩ := Capture.NoSkip.appendBits_lineBits hskip hn hsynced s.params hroom
  rw [heq] at hwc
  refine ⟨t, ht, by rw [hwc], by rw [hwc, hn], fun k hk => ?_, fun a ha => ?_⟩
  · rw [hwc]
    dsimp only
    rw [Memory.read_writeList hwf bytes hroom, if_pos (by omega), Nat.add_sub_cancel_left, List.getD_eq_getElem?_getD,
      List.getElem?_eq_getElem hk, Option.getD_some]
  · rw [hwc]
    dsimp only
    rw [Memory.read_writeList hwf bytes hroom, if_neg (by omega)]

end Sys2Proof.Machine
end

section
/-! PROOFS. The operations of the main tick during a capture. -/

namespace Sys2Proof.Machine

/-- The guard of R55 while a capture is armed. -/
theorem guarded_eq_refused {wc : Capture} (h : wc.state ≠ .idle) (o : Out) :
    (if wc.armed then .refused .duringCapture else o) = .refused .duringCapture := if_pos (armed_iff.2 h)

theorem execStpSample_next (sample : BitVec 4) (s : State) :
    ∃ a, execStpSample sample s = .next { sampleHead sample s with answer := a } := by
  unfold execStpSample
  split <;> exact ⟨_, rfl⟩

/-- During a capture FAC.TICK runs the tracker and returns (R55, R148). -/
theorem execFacTick_armed {s : State} (h : s.wc.state ≠ .idle) (sample : BitVec 4) :
    execFacTick sample s = .next { sampleHead sample s with answer := .ok } := by
  have harmed : (sampleHead sample s).wc.armed = true := by rwa [sampleHead_wc, armed_iff]
  exact if_pos harmed

/-- Settles O51: six operations stop at the guard of R55, and FAC.TICK returns where STP.SAMPLE ends. -/
theorem mainTickOperationsRefusedDuringACapture : Obligations.MainTickOperationsRefusedDuringACapture := by
  unfold Obligations.MainTickOperationsRefusedDuringACapture
  intro s T t sec bytes data sample h
  obtain ⟨a, hsample⟩ := execStpSample_next sample s
  exact ⟨guarded_eq_refused h _, guarded_eq_refused h _, guarded_eq_refused h _, guarded_eq_refused h _,
    guarded_eq_refused h _, guarded_eq_refused h _, _, hsample, execFacTick_armed h sample⟩

end Sys2Proof.Machine
end

section
/-! PROOFS. Ids that R81 does not list, and words of R81 written out. -/

namespace Sys2Proof

/-- The alternatives of the decoder are the ids R81 lists; any other id is in its last one (R80). -/
theorem decode_unassigned {id : Byte} (h : id.toNat ∉ Laws.assignedIds) (bs : List Byte) :
    decode (id :: bs) = .error (.unassigned id) := by
  simp only [decode]
  split
  case h_39 => rfl -- the alternative for every other id
  all_goals
    rename_i hid
    exact absurd (by rw [hid]; decide) h

namespace Machine

/-- Bytes that are no operation are refused by the step that would take them (U22). -/
theorem step_of_decode_error {s : State} {b : Byte} {rest : List Byte} {e : DecodeError}
    (hp : s.pending = b :: rest) (hd : decode (b :: rest) = .error e) : step s = .refused (refusalOf e) := by
  simp [step, stepNext, fetch, hp, hd]

/-- Settles O3: the decoder names the id, and the step keeps the name. -/
theorem unassignedIdsAreRefused : Obligations.UnassignedIdsAreRefused := by
  unfold Obligations.UnassignedIdsAreRefused
  intro s id rest hp hid
  exact step_of_decode_error hp (decode_unassigned hid rest)

/-- Settles O4: the decoder evaluated on each of the five words. -/
theorem specWordsDecode : Obligations.SpecWordsDecode := ⟨rfl, rfl, rfl, rfl, rfl⟩

end Machine
end Sys2Proof
end

section
/-! PROOFS. The encoded payload byte by byte (R72). -/

namespace Sys2Proof.Machine

/-! ### Table lookups as the formulas write them -/

theorem nib_getElem? (P : Params) (c : Code) : P.nib[c.toNat]? = some (nibOf P c) :=
  Vector.getElem?_eq_getElem c.isLt

theorem lutOf_eq_getD (lut : Vector Code 4) (a : Crumb) : lutOf lut a = lut.toList.getD a.toNat 0#6 := by
  have ha : a.toNat < lut.toList.length := by simpa using a.isLt
  simp [lutOf, List.getD_eq_getElem?_getD, List.getElem?_eq_getElem ha]

@[simp] theorem lowBits_toNat (raw : List Byte) (k : Nat) :
    (lowBits raw k).toNat = (raw.getD k 0x00#8).toNat % 4 := BitVec.toNat_setWidth 2 _

theorem topBits_eq_ofNat (b : Byte) : topBits b = BitVec.ofNat 6 (b.toNat / 4) := by
  apply BitVec.eq_of_toNat_eq
  simp [topBits, Nat.shiftRight_eq_div_pow]

/-! ### The codes and the running XOR -/

/-- The encoder's list of codes at any index is the code of R72. Past the end both are 0, so the end needs no case of
its own. -/
theorem sectorCodes_getD (P : Params) (raw : List Byte) (k : Nat) :
    (sectorCodes P raw).getD k 0#6 = payloadCode P raw k := by
  unfold sectorCodes payloadCode
  by_cases hk : k < 86
  · rw [if_pos hk, List.getD_append _ _ _ _ (by simpa)]
    simp [List.getD_eq_getElem?_getD, List.getElem?_range hk, pairEnc, lutOf_eq_getD]
  · have hzero : topBits 0x00#8 = 0#6 := rfl
    rw [if_neg hk, List.getD_append_right _ _ _ _ (by simpa using hk), ← topBits_eq_ofNat, ← hzero, List.getD_map]
    simp

/-- Byte `k` of the running XOR combines code `k` with the one before it, the accumulator standing before the first. At
the closing byte there is no code `k`, and the default 0 leaves the last code as it is. -/
theorem xorChain_getElem? (P : Params) (ox : Code) (xs : List Code) {k : Nat} (hk : k ≤ xs.length) :
    (xorChain P ox xs)[k]? = some (nibOf P (xs.getD k 0#6 ^^^ (ox :: xs).getD k 0#6)) := by
  induction xs generalizing ox k with
  | nil =>
    obtain rfl : k = 0 := Nat.le_zero.1 hk
    simp [xorChain]
  | cons x xs ih =>
    cases k with
    | zero => rfl
    | succ k => exact ih x (Nat.le_of_succ_le_succ hk)

/-- No code follows `x[341]`: the formula read at 342 meets the byte after the sector, and gives 0. -/
theorem payloadCode_end (P : Params) {raw : List Byte} (h : raw.length = 256) : payloadCode P raw 342 = 0#6 := by
  simp [payloadCode, List.getD_eq_getElem?_getD, h]

/-- R72's three cases as one: code `k` against the one before it, with 0 before the first and after the last. -/
theorem payloadByte_eq (P : Params) {raw : List Byte} (h : raw.length = 256) {k : Nat} (hk : k < 343) :
    payloadByte P raw k = some (nibOf P (payloadCode P raw k ^^^ (0#6 :: sectorCodes P raw).getD k 0#6)) := by
  rw [payloadByte, nib_getElem?]
  cases k with
  | zero => simp
  | succ k =>
    rw [List.getD_cons_succ, sectorCodes_getD, Nat.add_sub_cancel, if_neg k.succ_ne_zero]
    by_cases hlast : k + 1 < 342
    · rw [if_pos hlast]
    · obtain rfl : k = 341 := by omega
      rw [if_neg hlast, payloadCode_end P h, BitVec.zero_xor]

/-- Settles O12: the encoder's loop gives the same code against the same predecessor as the formula. -/
theorem nicEncPayloadFormula : Obligations.NicEncPayloadFormula := by
  unfold Obligations.NicEncPayloadFormula
  intro s raw hraw
  refine ⟨nicEnc s.params raw, rfl, nicEnc_length _ hraw, fun k hk => ?_⟩
  have hcodes : k ≤ (sectorCodes s.params raw).length := by
    rw [sectorCodes_length, hraw]
    omega
  rw [nicEnc, xorChain_getElem? _ _ _ hcodes, sectorCodes_getD, payloadByte_eq _ hraw hk]

end Sys2Proof.Machine
end

section
/-! PROOFS. Looking up a table by search, which is how the inverse tables of R74, R92 and R94 are computed (log entry 21);
and the answer of a pure function. -/

namespace Sys2Proof.Machine

/-- What the search finds is an entry, whether or not the entries are distinct. -/
theorem getElem?_of_findIdx?_beq {α : Type} [BEq α] [LawfulBEq α] {l : List α} {a : α} {i : Nat}
    (h : l.findIdx? (· == a) = some i) : l[i]? = some a := by
  obtain ⟨hi, hbeq, -⟩ := List.findIdx?_eq_some_iff_getElem.1 h
  rw [List.getElem?_eq_getElem hi, eq_of_beq hbeq]

/-- Among distinct entries the search finds each one at its own index: the first match is the only one. -/
theorem findIdx?_beq_eq_some_iff {α : Type} [BEq α] [LawfulBEq α] {l : List α} (hl : l.Nodup) {a : α} {i : Nat} :
    l.findIdx? (· == a) = some i ↔ l[i]? = some a := by
  refine ⟨getElem?_of_findIdx?_beq, fun h => ?_⟩
  obtain ⟨hi, rfl⟩ := List.getElem?_eq_some_iff.1 h
  refine List.findIdx?_eq_some_iff_getElem.2 ⟨hi, beq_self_eq_true _, fun j hji hbeq => ?_⟩
  exact hji.ne (hl.getElem_inj_iff.1 (eq_of_beq hbeq))

/-- A table of distinct entries from a set no larger than the table holds the whole set. -/
theorem mem_of_nodup_of_card_le {α : Type} [DecidableEq α] {l : List α} {S : Finset α} (hl : l.Nodup)
    (hsub : ∀ x ∈ l, x ∈ S) (hcard : S.card ≤ l.length) {a : α} (ha : a ∈ S) : a ∈ l := by
  have heq : l.toFinset = S :=
    Finset.eq_of_subset_of_card_le (fun x hx => hsub x (List.mem_toFinset.1 hx))
      (by rwa [List.toFinset_card_of_nodup hl])
  rwa [← List.mem_toFinset, heq]

/-- A pure function's answer is the operation's only effect, so the next state tells the answer (R11, R79). -/
theorem answer_eq_next_iff {a b : Answer} {s : State} : answer a s = .next { s with answer := b } ↔ a = b := by
  refine ⟨fun h => ?_, fun h => h ▸ rfl⟩
  injection h with hstate
  exact congrArg State.answer hstate

end Sys2Proof.Machine
end

section
/-! PROOFS. The 6-bit code table and its inverse (R85 to R87). -/

namespace Sys2Proof.Machine

theorem nib_getElem?_eq_some_iff {P : Params} {c : Code} {b : Byte} : P.nib[c.toNat]? = some b ↔ nibOf P c = b := by
  rw [nib_getElem?, Option.some_inj]

/-- The mask of R85 keeps the low six bits, which are the code. -/
theorem toNat_and_mask_eq_setWidth (c : Byte) : (c &&& 0x3F#8).toNat = (c.setWidth 6).toNat := by
  rw [BitVec.toNat_and, BitVec.toNat_setWidth]
  exact Nat.and_two_pow_sub_one_eq_mod c.toNat 6

/-- NIB.ENC of a code is its table entry: the mask removes nothing (R85). -/
@[simp] theorem nibEnc_setWidth (P : Params) (c : Code) : nibEnc P (c.setWidth 8) = nibOf P c := by
  rw [nibEnc, BitVec.setWidth_setWidth_of_le c (by decide), BitVec.setWidth_eq]

/-- A code NIB.DEC answers has the byte as its entry, on every table (R86, second law of R87). -/
theorem nibOf_of_nibDec {P : Params} {b : Byte} {c : Code} (h : nibDec P b = some c) : nibOf P c = b := by
  obtain ⟨i, hfind, rfl⟩ := Option.map_eq_some_iff.1 h
  have hentry := getElem?_of_findIdx?_beq hfind
  have hi : i < 64 := by simpa using (List.getElem?_eq_some_iff.1 hentry).1
  rw [← nib_getElem?_eq_some_iff, BitVec.toNat_ofNat, Nat.mod_eq_of_lt hi, ← Vector.getElem?_toList]
  exact hentry

/-- On a table of distinct entries NIB.DEC is the inverse of the table (R74, R86). -/
theorem nibDec_eq_some_iff {P : Params} (hP : P.nib.toList.Nodup) {b : Byte} {c : Code} :
    nibDec P b = some c ↔ nibOf P c = b := by
  refine ⟨nibOf_of_nibDec, fun h => ?_⟩
  have hfind : P.nib.toList.findIdx? (· == b) = some c.toNat := by
    rwa [findIdx?_beq_eq_some_iff hP, Vector.getElem?_toList, nib_getElem?_eq_some_iff]
  rw [nibDec, hfind, Option.map_some, BitVec.ofNat_toNat, BitVec.setWidth_eq]

theorem nibDec_nibOf {P : Params} (hP : P.nib.toList.Nodup) (c : Code) : nibDec P (nibOf P c) = some c :=
  (nibDec_eq_some_iff hP).2 rfl

/-- Codes with entries of their own make the table's entries distinct. -/
theorem nib_nodup_of_injective {P : Params} (h : Function.Injective (nibOf P)) : P.nib.toList.Nodup := by
  rw [List.nodup_iff_getElem?_ne_getElem?]
  intro i j hij hj heq
  rw [Vector.length_toList] at hj
  have hentry : ∀ k : Fin 64, P.nib.toList[k.val]? = some (nibOf P (BitVec.ofFin k)) := fun k => by
    rw [Vector.getElem?_toList]
    exact nib_getElem? P (BitVec.ofFin k)
  rw [hentry ⟨i, hij.trans hj⟩, hentry ⟨j, hj⟩, Option.some_inj] at heq
  have hcode : i = j := congrArg BitVec.toNat (h heq)
  exact hij.ne hcode

/-- Settles O6: the mask is the code's width, and the search is the inverse of a table of distinct entries. -/
theorem nibOperationsReadTheCodeTable : Obligations.NibOperationsReadTheCodeTable := by
  unfold Obligations.NibOperationsReadTheCodeTable
  refine fun s => ⟨fun c => ⟨nibEnc s.params c, ?_, rfl⟩, fun hP b => ⟨nibDec s.params b, rfl, fun c => ?_⟩⟩
  · rw [toNat_and_mask_eq_setWidth, nib_getElem?, nibEnc]
  · obtain ⟨hnib, -⟩ := hP
    rw [nibDec_eq_some_iff hnib, nib_getElem?_eq_some_iff]

/-- Settles O7: a left inverse of the table makes it injective; the second law needs no premise. -/
theorem codeTableLaw : Obligations.CodeTableLaw := by
  unfold Obligations.CodeTableLaw
  intro P
  simp only [nibEnc_setWidth]
  refine ⟨⟨fun hlaw => nib_nodup_of_injective fun c d hcd => ?_, nibDec_nibOf⟩, fun b c => nibOf_of_nibDec⟩
  rw [← Option.some_inj, ← hlaw c, hcd, hlaw d]

end Sys2Proof.Machine
end

section
/-! PROOFS. Nibblization, bit by bit (R69, R88 to R90). -/

namespace Sys2Proof.Machine

/-! ### The two masks -/

theorem getLsbD_0xAA_odd {k : Nat} (hk : k < 4) : (0xAA#8).getLsbD (2 * k + 1) = true := by
  revert k
  decide

theorem getLsbD_0xAA_even {k : Nat} (hk : k < 4) : (0xAA#8).getLsbD (2 * k) = false := by
  revert k
  decide

theorem getLsbD_and_0x55_even (b : Byte) {k : Nat} (hk : k < 4) :
    (b &&& 0x55#8).getLsbD (2 * k) = b.getLsbD (2 * k) := by
  have hmask : (0x55#8).getLsbD (2 * k) = true := by
    revert k
    decide
  rw [BitVec.getLsbD_and, hmask, Bool.and_true]

theorem getLsbD_and_0x55_odd (b : Byte) {k : Nat} (hk : k < 4) : (b &&& 0x55#8).getLsbD (2 * k + 1) = false := by
  have hmask : (0x55#8).getLsbD (2 * k + 1) = false := by
    revert k
    decide
  rw [BitVec.getLsbD_and, hmask, Bool.and_false]

/-! ### The bits of the pair and of the byte -/

/-- The first byte carries the odd bits in its even places (R69). -/
theorem n44Enc_fst_bits (v : Byte) {k : Nat} (hk : k < 4) :
    (n44Enc v).1.getLsbD (2 * k + 1) = true ∧ (n44Enc v).1.getLsbD (2 * k) = v.getLsbD (2 * k + 1) := by
  constructor
  · rw [n44Enc, BitVec.getLsbD_or, getLsbD_0xAA_odd hk, Bool.true_or]
  · rw [n44Enc, BitVec.getLsbD_or, getLsbD_0xAA_even hk, Bool.false_or, BitVec.getLsbD_ushiftRight, Nat.add_comm]

/-- The second byte carries the even bits in their places (R69). -/
theorem n44Enc_snd_bits (v : Byte) {k : Nat} (hk : k < 4) :
    (n44Enc v).2.getLsbD (2 * k + 1) = true ∧ (n44Enc v).2.getLsbD (2 * k) = v.getLsbD (2 * k) := by
  constructor
  · rw [n44Enc, BitVec.getLsbD_or, getLsbD_0xAA_odd hk, Bool.true_or]
  · rw [n44Enc, BitVec.getLsbD_or, getLsbD_0xAA_even hk, Bool.false_or]

/-- The odd bits come from the even places of the first byte, the even bits from those of the second (R89). -/
theorem n44Dec_bits (b0 b1 : Byte) {k : Nat} (hk : k < 4) :
    (n44Dec b0 b1).getLsbD (2 * k + 1) = b0.getLsbD (2 * k) ∧ (n44Dec b0 b1).getLsbD (2 * k) = b1.getLsbD (2 * k) := by
  rw [n44Dec, BitVec.getLsbD_or, BitVec.getLsbD_or, getLsbD_and_0x55_odd b1 hk, getLsbD_and_0x55_even b1 hk,
    BitVec.getLsbD_shiftLeft, BitVec.getLsbD_shiftLeft]
  constructor
  · have hbit : 2 * k + 1 < 8 := by omega
    simp only [Nat.add_sub_cancel, getLsbD_and_0x55_even b0 hk]
    simp [hbit]
  · cases k with
    | zero => simp
    | succ k =>
      have hshifted : (b0 &&& 0x55#8).getLsbD (2 * (k + 1) - 1) = false := getLsbD_and_0x55_odd b0 (by omega)
      rw [hshifted, Bool.and_false, Bool.false_or]

/-- R90: every bit of a byte stands in an even place of one of the two nibblized bytes. -/
theorem n44Dec_n44Enc (v : Byte) : n44Dec (n44Enc v).1 (n44Enc v).2 = v := by
  refine BitVec.eq_of_getLsbD_eq fun i hi => ?_
  obtain ⟨k, rfl | rfl⟩ := Nat.even_or_odd' i
  · have hk : k < 4 := by omega
    rw [(n44Dec_bits _ _ hk).2, (n44Enc_snd_bits v hk).2]
  · have hk : k < 4 := by omega
    rw [(n44Dec_bits _ _ hk).1, (n44Enc_fst_bits v hk).2]

/-- Settles O8: the mask 0xAA sets the odd places, the byte and its shift fill the even ones. -/
theorem n44EncGivesTheNibblizedPair : Obligations.N44EncGivesTheNibblizedPair := by
  unfold Obligations.N44EncGivesTheNibblizedPair
  refine fun s v => ⟨(n44Enc v).1, (n44Enc v).2, rfl, rfl, rfl, fun k hk => ?_⟩
  obtain ⟨hodd0, heven0⟩ := n44Enc_fst_bits v hk
  exact ⟨hodd0, heven0, n44Enc_snd_bits v hk⟩

/-- Settles O9: the bits of N44.DEC; it reads no odd place, so pairs that differ in one alone give one byte. -/
theorem n44DecTakesEvenBitsOfBothBytes : Obligations.N44DecTakesEvenBitsOfBothBytes := by
  unfold Obligations.N44DecTakesEvenBitsOfBothBytes
  refine ⟨fun s b0 b1 => ⟨n44Dec b0 b1, rfl, rfl, fun k hk => n44Dec_bits b0 b1 hk⟩, fun s v b0 b1 h => ?_, ?_⟩
  · have hpair : Answer.pair (n44Enc v).1 (n44Enc v).2 = .pair b0 b1 := answer_eq_next_iff.1 h
    injection hpair with h0 h1
    have hdec : n44Dec b0 b1 = v := by rw [← h0, ← h1, n44Dec_n44Enc]
    exact answer_eq_next_iff.2 (congrArg Answer.byte hdec)
  · exact ⟨0xAA#8, 0xAA#8, 0x00#8, 0x00#8, by decide, by decide⟩

end Sys2Proof.Machine
end

section
/-! PROOFS. The two-bit tables and their inverses (R75, R91, R92). -/

namespace Sys2Proof.Machine

/-! ### One table -/

theorem lut_getElem?_eq_some_iff {lut : Vector Code 4} {a : Crumb} {x : Code} :
    lut[a.toNat]? = some x ↔ lutOf lut a = x := by
  rw [Vector.getElem?_eq_getElem a.isLt, Option.some_inj, lutOf]

/-- The search undoes a table of distinct entries (R92). -/
theorem lutInv_lutOf {lut : Vector Code 4} (hlut : lut.toList.Nodup) (a : Crumb) : lutInv lut (lutOf lut a) = a := by
  have hfind : lut.toList.findIdx? (· == lutOf lut a) = some a.toNat := by
    rw [findIdx?_beq_eq_some_iff hlut, Vector.getElem?_toList, lut_getElem?_eq_some_iff]
  rw [lutInv, hfind, Option.getD_some, BitVec.ofNat_toNat, BitVec.setWidth_eq]

/-- Entries inside `mask` are kept by `mask`. -/
theorem lutOf_and_mask {lut : Vector Code 4} {mask : Code} (hlut : Params.LutOk lut mask) (a : Crumb) :
    lutOf lut a &&& mask = lutOf lut a := by
  obtain ⟨-, hmask⟩ := hlut
  have hmem : lutOf lut a ∈ lut.toList := by simp [lutOf]
  calc lutOf lut a &&& mask
      = lutOf lut a &&& mask ||| lutOf lut a &&& ~~~mask := by rw [hmask _ hmem, BitVec.or_zero]
    _ = lutOf lut a := by rw [← BitVec.and_or_distrib_left, BitVec.or_not_self, BitVec.and_allOnes]

/-- The codes whose set bits lie inside `mask`. -/
def codesInside (mask : Code) : Finset Code := Finset.univ.filter fun x => x &&& ~~~mask = 0#6

theorem mem_codesInside {mask x : Code} : x ∈ codesInside mask ↔ x &&& ~~~mask = 0#6 := by simp [codesInside]

/-- On an admissible table of a mask of two bits every masked code is an entry (R75), so the search finds it (R92). -/
theorem lutOf_lutInv {lut : Vector Code 4} {mask : Code} (hlut : Params.LutOk lut mask)
    (hmask : (codesInside mask).card = 4) (x : Code) : lutOf lut (lutInv lut (x &&& mask)) = x &&& mask := by
  obtain ⟨hnodup, hinside⟩ := hlut
  have hx : x &&& mask ∈ codesInside mask := by
    rw [mem_codesInside, BitVec.and_assoc, BitVec.and_not_self]
    exact BitVec.and_zero
  have hmem : x &&& mask ∈ lut.toList :=
    mem_of_nodup_of_card_le hnodup (fun y hy => mem_codesInside.2 (hinside y hy))
      (by rw [hmask, Vector.length_toList]) hx
  obtain ⟨i, hi, hentry⟩ := List.mem_iff_getElem.1 hmem
  rw [Vector.length_toList] at hi
  have hlook : lutOf lut (BitVec.ofFin ⟨i, hi⟩) = x &&& mask := hentry
  rw [← hlook, lutInv_lutOf hnodup]

/-! ### The three tables together -/

/-- The masks of the three tables are disjoint: the OR of three masked codes has each of them under its own mask. -/
theorem or_masked_and_masks (x0 x1 x2 : Code) :
    (x0 &&& 0x03#6 ||| x1 &&& 0x0C#6 ||| x2 &&& 0x30#6) &&& 0x03#6 = x0 &&& 0x03#6 ∧
    (x0 &&& 0x03#6 ||| x1 &&& 0x0C#6 ||| x2 &&& 0x30#6) &&& 0x0C#6 = x1 &&& 0x0C#6 ∧
    (x0 &&& 0x03#6 ||| x1 &&& 0x0C#6 ||| x2 &&& 0x30#6) &&& 0x30#6 = x2 &&& 0x30#6 := by
  simp [BitVec.and_or_distrib_right, BitVec.and_assoc]

/-- The three masks together are all six bits. -/
theorem masks_or_self (x : Code) : x &&& 0x03#6 ||| x &&& 0x0C#6 ||| x &&& 0x30#6 = x := by
  rw [← BitVec.and_or_distrib_left, ← BitVec.and_or_distrib_left]
  exact BitVec.and_allOnes

/-- First law of R92. -/
theorem pairDec_pairEnc {P : Params} (h0 : Params.LutOk P.lut0 0x03#6) (h1 : Params.LutOk P.lut1 0x0C#6)
    (h2 : Params.LutOk P.lut2 0x30#6) (a0 a1 a2 : Crumb) :
    pairDec0 P (pairEnc P a0 a1 a2) = a0 ∧ pairDec1 P (pairEnc P a0 a1 a2) = a1 ∧
    pairDec2 P (pairEnc P a0 a1 a2) = a2 := by
  obtain ⟨hmask0, hmask1, hmask2⟩ := or_masked_and_masks (lutOf P.lut0 a0) (lutOf P.lut1 a1) (lutOf P.lut2 a2)
  simp only [lutOf_and_mask h0, lutOf_and_mask h1, lutOf_and_mask h2] at hmask0 hmask1 hmask2
  rw [pairDec0, pairDec1, pairDec2, pairEnc, hmask0, hmask1, hmask2]
  exact ⟨lutInv_lutOf h0.1 a0, lutInv_lutOf h1.1 a1, lutInv_lutOf h2.1 a2⟩

/-- The three values of PAIR.DEC have the three bit pairs of the code as their entries (R92). -/
theorem lutOf_pairDec {P : Params} (h0 : Params.LutOk P.lut0 0x03#6) (h1 : Params.LutOk P.lut1 0x0C#6)
    (h2 : Params.LutOk P.lut2 0x30#6) (x : Code) :
    lutOf P.lut0 (pairDec0 P x) = x &&& 0x03#6 ∧ lutOf P.lut1 (pairDec1 P x) = x &&& 0x0C#6 ∧
    lutOf P.lut2 (pairDec2 P x) = x &&& 0x30#6 :=
  ⟨lutOf_lutInv h0 (by decide) x, lutOf_lutInv h1 (by decide) x, lutOf_lutInv h2 (by decide) x⟩

/-- Settles O10: each table and its mask are one-to-one, and the masks divide the six bits. -/
theorem pairOperationsUseTheThreeTables : Obligations.PairOperationsUseTheThreeTables := by
  unfold Obligations.PairOperationsUseTheThreeTables
  simp only [lut_getElem?_eq_some_iff]
  intro s
  refine ⟨fun a0 a1 a2 => ⟨_, _, _, rfl, rfl, rfl, rfl⟩, fun hP => ?_⟩
  obtain ⟨-, -, h0, h1, h2, -⟩ := hP
  refine ⟨fun x => ?_, fun a0 a1 a2 x h => ?_⟩
  · obtain ⟨hx0, hx1, hx2⟩ := lutOf_pairDec h0 h1 h2 x
    refine ⟨_, _, _, hx0, hx1, hx2, rfl, answer_eq_next_iff.2 (congrArg Answer.code ?_)⟩
    rw [pairEnc, hx0, hx1, hx2, masks_or_self]
  · have hcode : Answer.code (pairEnc s.params a0 a1 a2) = .code x := answer_eq_next_iff.1 h
    injection hcode with hx
    obtain ⟨hd0, hd1, hd2⟩ := pairDec_pairEnc h0 h1 h2 a0 a1 a2
    refine answer_eq_next_iff.2 ?_
    rw [← hx, hd0, hd1, hd2]

end Sys2Proof.Machine
end

section
/-! PROOFS. The interleave permutation (R93 to R95). -/

namespace Sys2Proof.Machine

theorem p2l_getElem?_eq_some_iff {P : Params} {p l : Fin 16} : P.p2l[p.val]? = some l ↔ p2l P p = l := by
  rw [Vector.getElem?_eq_getElem p.isLt, Option.some_inj]
  rfl

/-- The search undoes a table of distinct sectors (R94, R95). -/
theorem l2p_p2l {P : Params} (hP : P.p2l.toList.Nodup) (p : Fin 16) : l2p P (p2l P p) = p := by
  have hfind : P.p2l.toList.findIdx? (· == p2l P p) = some p.val := by
    rw [findIdx?_beq_eq_some_iff hP, Vector.getElem?_toList, p2l_getElem?_eq_some_iff]
  rw [l2p, hfind, Option.getD_some]
  exact Fin.ofNat_val_eq_self p

/-- Sixteen distinct sectors are all sectors, so each has a slot (R94, R95). -/
theorem p2l_l2p {P : Params} (hP : P.p2l.toList.Nodup) (l : Fin 16) : p2l P (l2p P l) = l := by
  have hsurjective : Function.Surjective (p2l P) :=
    Finite.injective_iff_surjective.1 (Function.LeftInverse.injective (l2p_p2l hP))
  obtain ⟨p, rfl⟩ := hsurjective l
  rw [l2p_p2l hP]

theorem ofNat_toNat_eq_slotOf (p : BitVec 4) : Fin.ofNat 16 p.toNat = slotOf p :=
  Fin.ofNat_val_eq_self (slotOf p)

theorem slotOf_ofNat_val (l : Fin 16) : slotOf (BitVec.ofNat 4 l.val) = l :=
  Fin.ofNat_val_eq_self l

/-- Settles O11: the two operations are the table and its search, which undo each other. -/
theorem interleaveIsABijection : Obligations.InterleaveIsABijection := by
  unfold Obligations.InterleaveIsABijection
  intro s hP
  obtain ⟨-, -, -, -, -, hp2l⟩ := hP
  simp only [ofNat_toNat_eq_slotOf]
  refine ⟨fun p => ⟨p2l s.params (slotOf p), ?_, rfl, ?_⟩, fun l => ⟨l2p s.params (slotOf l), ?_, rfl⟩⟩
  · exact p2l_getElem?_eq_some_iff.2 rfl
  · refine answer_eq_next_iff.2 (congrArg Answer.sector ?_)
    rw [slotOf_ofNat_val, l2p_p2l hp2l]
  · exact p2l_getElem?_eq_some_iff.2 (p2l_l2p hp2l (slotOf l))

end Sys2Proof.Machine
end

section
/-! PROOFS. The address field and the sector record, field by field (R99, R100, R107). -/

namespace Sys2Proof.Machine

/-- R107 reads the prologue from the first three bytes alone. -/
theorem addrDec_ok_iff (f0 f1 f2 : Byte) (more : List Byte) :
    (addrDec (f0 :: f1 :: f2 :: more)).ok = true ↔ f0 = 0xD5#8 ∧ f1 = 0xAA#8 ∧ f2 = 0x96#8 := by
  simp [addrDec, addressPrologue]

/-- Settles O16: the encoder's list written out, and the decoder's prologue test; its four values are N44.DEC's. -/
theorem addressFieldCodec : Obligations.AddressFieldCodec := by
  unfold Obligations.AddressFieldCodec
  refine fun s => ⟨fun vol trk sec => ⟨addrEnc vol trk sec, rfl, rfl⟩, ?_⟩
  intro f0 f1 f2 f3 f4 f5 f6 f7 f8 f9 f10 f11 f12 f13
  exact ⟨_, rfl, addrDec_ok_iff f0 f1 f2 _, rfl, rfl, rfl, rfl⟩

theorem ofNat_slotOf_val (p : BitVec 4) : BitVec.ofNat 8 (slotOf p).val = p.setWidth 8 :=
  BitVec.ofNat_toNat 8 p

/-- Settles O17: the record's definition, its slot number as the byte ADDR.ENC takes. -/
theorem secEncRecordLayout : Obligations.SecEncRecordLayout := by
  unfold Obligations.SecEncRecordLayout
  intro s T p raw _ hraw
  refine ⟨addrEnc 0xFE#8 (BitVec.ofNat 8 T) (p.setWidth 8), nicEnc s.params raw, secEnc s.params T (slotOf p) raw,
    rfl, rfl, rfl, ?_, Vector.length_toList, addrEnc_length _ _ _, nicEnc_length _ hraw, Vector.length_toList⟩
  rw [secEnc, ofNat_slotOf_val]
  rfl

end Sys2Proof.Machine
end

section
/-! PROOFS. The track as 16 records of one size, and the sectors of an image operand (R41, R101, R102). -/

namespace Sys2Proof.Machine

/-- Pieces of one size `n` stand at the multiples of `n`. -/
theorem take_drop_flatMap_const {α : Type} {f : α → List Byte} {n : Nat} (hf : ∀ a, (f a).length = n) {l : List α}
    {k : Nat} {a : α} (hk : l[k]? = some a) : ((l.flatMap f).drop (k * n)).take n = f a := by
  induction l generalizing k with
  | nil => cases hk
  | cons b l ih =>
    rw [List.flatMap_cons]
    cases k with
    | zero =>
      obtain rfl : b = a := Option.some_inj.1 hk
      rw [Nat.zero_mul, List.drop_zero, List.take_left' (hf b)]
    | succ k =>
      rw [Nat.succ_mul, Nat.add_comm, ← List.drop_drop, List.drop_left' (hf b)]
      exact ih hk

theorem finRange_getElem?_slotOf (p : BitVec 4) : (List.finRange 16)[p.toNat]? = some (slotOf p) := by
  have hp : p.toNat < (List.finRange 16).length := by simpa using p.isLt
  rw [List.getElem?_eq_getElem hp, List.getElem_finRange]
  rfl

/-- Record `p` of an encoded track is SEC.ENC of slot `p` and the sector it holds (R101). -/
theorem trkEnc_record (P : Params) (img : Memory) (T : Nat) (p : BitVec 4) :
    ((trkEnc P img T).drop (p.toNat * 416)).take 416 =
      secEnc P T (slotOf p) (img.block (sectorAddr T (p2l P (slotOf p)).val) 256) :=
  take_drop_flatMap_const (fun q => secEnc_length P T q (Memory.block_length _ _ _)) (finRange_getElem?_slotOf p)

/-- Bytes stored from address 0 read back at their index, past the end as 0. -/
theorem Memory.read_ofBytes_zero (bs : List Byte) (y : Nat) : (Memory.ofBytes 0 bs).read y = bs.getD y 0x00#8 := by
  rw [Memory.read_ofBytes, Nat.zero_add, Nat.sub_zero]
  split
  · rfl
  · rw [List.getD_eq_default _ _ (by omega)]

/-- A block of an image operand no longer than IMG, the bytes it does not give being 0 (log entry 14). -/
theorem imageOf_block {img : List Byte} (himg : img.length ≤ 143360) (a n : Nat) :
    (imageOf img).block a n = (List.range n).map fun b => img.getD (a + b) 0x00#8 := by
  rw [imageOf, List.take_of_length_le himg]
  exact List.map_congr_left fun b _ => Memory.read_ofBytes_zero img (a + b)

/-- Settles O18: record `p` of the track, over the block of the operand where R41 puts the sector. -/
theorem trkEncSixteenRecords : Obligations.TrkEncSixteenRecords := by
  unfold Obligations.TrkEncSixteenRecords
  intro s img T himg hT
  refine ⟨trkEnc s.params (imageOf img) T, if_pos (sectorAddr_track_le hT), trkEnc_length _ _ _, fun p l hl => ?_⟩
  have hslot : p2l s.params (slotOf p) = l := p2l_getElem?_eq_some_iff.1 hl
  refine answer_eq_next_iff.2 (congrArg Answer.bytes ?_)
  rw [trkEnc_record, hslot, imageOf_block himg, sectorAddr]

end Sys2Proof.Machine
end

section
/-! PROOFS. NIC.DEC step by step: the bytes it accepts and rejects, and the XOR chain it undoes (R104, R105). -/

namespace Sys2Proof.Machine

/-! ### The two answers of NIC.DEC -/

theorem exec_nicDec_of_ok {s : State} {enc raw : List Byte} (h : nicDec s.params enc = .ok raw) :
    exec (.nicDec enc) s = .next { s with answer := .bytes raw } := by
  change execNicDec enc s = _
  rw [execNicDec, h]
  rfl

theorem exec_nicDec_of_error {s : State} {enc : List Byte} {k : Nat} (h : nicDec s.params enc = .error k) :
    exec (.nicDec enc) s = .next { s with answer := .error (.decode k) } := by
  change execNicDec enc s = _
  rw [execNicDec, h]
  rfl

/-! ### One byte, and the loop over them -/

/-- The invalid bytes are those that are no table entry (R74). -/
theorem nibDec_eq_none_iff {P : Params} {b : Byte} : nibDec P b = none ↔ b ∉ P.nib.toList := by
  rw [nibDec, Option.map_eq_none_iff, List.findIdx?_eq_none_iff]
  simp only [beq_eq_false_iff_ne]
  exact ⟨fun h hb => h b hb rfl, fun h x hx hxb => h (hxb ▸ hx)⟩

theorem undoXor_cons_of_some {P : Params} {b : Byte} {c : Code} (h : nibDec P b = some c) (n : Nat) (ox : Code)
    (bs : List Byte) : undoXor P n ox (b :: bs) = (undoXor P (n + 1) (c ^^^ ox) bs).map ((c ^^^ ox) :: ·) := by
  rw [undoXor, h]
  dsimp only
  cases undoXor P (n + 1) (c ^^^ ox) bs <;> rfl

theorem undoXor_cons_of_none {P : Params} {b : Byte} (h : nibDec P b = none) (n : Nat) (ox : Code) (bs : List Byte) :
    undoXor P n ox (b :: bs) = .error n := by
  rw [undoXor, h]

/-- The loop stops at the first byte that is no entry, whatever the codes before it are. -/
theorem undoXor_eq_error {P : Params} {bs : List Byte} {k : Nat} {b : Byte} (hb : bs[k]? = some b)
    (hbad : b ∉ P.nib.toList) (hgood : ∀ j, j < k → ∀ a, bs[j]? = some a → a ∈ P.nib.toList) (n : Nat)
    (ox : Code) : undoXor P n ox bs = .error (n + k) := by
  induction bs generalizing k n ox with
  | nil => cases hb
  | cons a bs ih =>
    cases k with
    | zero =>
      obtain rfl : a = b := Option.some_inj.1 hb
      exact undoXor_cons_of_none (nibDec_eq_none_iff.2 hbad) n ox bs
    | succ k =>
      have ha : nibDec P a ≠ none := fun h => nibDec_eq_none_iff.1 h (hgood 0 k.succ_pos a rfl)
      obtain ⟨c, hc⟩ := Option.ne_none_iff_exists'.1 ha
      have htail := ih hb (fun j hj => hgood (j + 1) (Nat.succ_lt_succ hj)) (n + 1) (c ^^^ ox)
      rw [undoXor_cons_of_some hc, htail, Nat.add_right_comm]
      rfl

/-- Codes that follow R104's recurrence from the accumulator are what the loop answers. -/
theorem undoXor_range_map {P : Params} (hnib : P.nib.toList.Nodup) {c v : Nat → Code} {ox : Code}
    (hfirst : v 0 = c 0 ^^^ ox) (hnext : ∀ k, v (k + 1) = c (k + 1) ^^^ v k) (n m : Nat) :
    undoXor P n ox ((List.range m).map fun k => nibOf P (c k)) = .ok ((List.range m).map v) := by
  induction m generalizing c v ox n with
  | zero => rfl
  | succ m ih =>
    have htail := ih (c := fun k => c (k + 1)) (v := fun k => v (k + 1)) (hnext 0) (fun k => hnext (k + 1)) (n + 1)
    rw [List.range_succ_eq_map, List.map_cons, List.map_cons, List.map_map, List.map_map,
      undoXor_cons_of_some (nibDec_nibOf hnib (c 0)), ← hfirst]
    exact congrArg (Except.map (v 0 :: ·)) htail

/-- Each code of the chain is XORed with the one before it and comes back; the closing byte leaves 0 (R97, R104). -/
theorem undoXor_xorChain {P : Params} (hnib : P.nib.toList.Nodup) (n : Nat) (ox : Code) (xs : List Code) :
    undoXor P n ox (xorChain P ox xs) = .ok (xs ++ [0#6]) := by
  induction xs generalizing n ox with
  | nil =>
    rw [xorChain, undoXor_cons_of_some (nibDec_nibOf hnib ox), BitVec.xor_self]
    rfl
  | cons x xs ih =>
    have hback : x ^^^ ox ^^^ ox = x := by rw [BitVec.xor_assoc, BitVec.xor_self, BitVec.xor_zero]
    rw [xorChain, undoXor_cons_of_some (nibDec_nibOf hnib (x ^^^ ox)), hback, ih]
    rfl

/-! ### The whole operand -/

theorem nicDec_of_undoXor_ok {P : Params} {enc : List Byte} {v : List Code}
    (h : undoXor P 0 0#6 (enc.take 343) = .ok v) : nicDec P enc = .ok (sectorOf P v) := by
  rw [nicDec, h]

theorem nicDec_of_undoXor_error {P : Params} {enc : List Byte} {k : Nat}
    (h : undoXor P 0 0#6 (enc.take 343) = .error k) : nicDec P enc = .error k := by
  rw [nicDec, h]

/-- Settles O14: the loop's index counts from 0, and byte 342 is among the 343 it reads. -/
theorem nicDecReportsTheFirstInvalidByte : Obligations.NicDecReportsTheFirstInvalidByte := by
  unfold Obligations.NicDecReportsTheFirstInvalidByte
  intro s enc k b hk hb hbad hgood
  have hread : ∀ j, j ≤ k → (enc.take 343)[j]? = enc[j]? := fun j hj =>
    List.getElem?_take_of_lt (hj.trans_lt hk)
  have hloop : undoXor s.params 0 0#6 (enc.take 343) = .error (0 + k) :=
    undoXor_eq_error ((hread k le_rfl).trans hb) hbad
      (fun j hj a ha => hgood j hj a ((hread j hj.le).symm.trans ha)) 0 0#6
  rw [Nat.zero_add] at hloop
  exact exec_nicDec_of_error (nicDec_of_undoXor_error hloop)

end Sys2Proof.Machine
end

section
/-! PROOFS. The sector NIC.DEC puts together from the codes (R104). -/

namespace Sys2Proof.Machine

/-! ### Six bits and two bits in one byte -/

theorem toNat_code_append_crumb (x : Code) (a : Crumb) : (x ++ a : BitVec 8).toNat = 4 * x.toNat + a.toNat := by
  have ha : a.toNat < 2 ^ 2 := a.isLt
  rw [BitVec.toNat_append, ← Nat.shiftLeft_add_eq_or_of_lt ha, Nat.shiftLeft_eq, Nat.mul_comm]

theorem code_append_crumb_div (x : Code) (a : Crumb) : (x ++ a : BitVec 8).toNat / 4 = x.toNat := by
  have ha : a.toNat < 4 := a.isLt
  rw [toNat_code_append_crumb]
  omega

theorem code_append_crumb_mod (x : Code) (a : Crumb) : (x ++ a : BitVec 8).toNat % 4 = a.toNat := by
  have ha : a.toNat < 4 := a.isLt
  rw [toNat_code_append_crumb]
  omega

/-- The encoder's split of a raw byte loses nothing (R97). -/
theorem ofNat_div_append_ofNat_mod (b : Byte) :
    (BitVec.ofNat 6 (b.toNat / 4) ++ b.setWidth 2 : BitVec 8) = b := by
  have hb : b.toNat < 256 := b.isLt
  apply BitVec.eq_of_toNat_eq
  rw [toNat_code_append_crumb, BitVec.toNat_ofNat, BitVec.toNat_setWidth]
  omega

/-! ### The bytes of the sector -/

theorem getD_range_map {α : Type} (f : Nat → α) {n k : Nat} (hk : k < n) (d : α) :
    ((List.range n).map f).getD k d = f k := by
  simp [List.getD_eq_getElem?_getD, List.getElem?_range hk]

theorem sectorOf_getD (P : Params) (v : List Code) {k : Nat} (hk : k < 256) :
    (sectorOf P v).getD k 0x00#8 = (v.getD (86 + k) 0#6 ++ lowOf P v k : BitVec 8) := getD_range_map _ hk 0x00#8

section LowBits

variable (P : Params) (v : List Code) {k : Nat}

theorem lowOf_first (h : k < 86) : lowOf P v k = pairDec0 P (v.getD k 0#6) := if_pos h

theorem lowOf_second (h : 86 ≤ k) (h' : k < 172) : lowOf P v k = pairDec1 P (v.getD (k - 86) 0#6) := by
  rw [lowOf, if_neg h.not_gt, if_pos h']

theorem lowOf_third (h : 172 ≤ k) : lowOf P v k = pairDec2 P (v.getD (k - 172) 0#6) := by
  rw [lowOf, if_neg (by omega), if_neg h.not_gt]

end LowBits

/-- Settles O13: the loop answers the codes of the recurrence, and the two low bits are looked up by inverse tables. -/
theorem nicDecUndoesTheRunningXor : Obligations.NicDecUndoesTheRunningXor := by
  unfold Obligations.NicDecUndoesTheRunningXor
  intro s enc c v hP hlen hcodes hfirst hnext
  obtain ⟨hnib, -, h0, h1, h2, -⟩ := hP
  have hbytes : enc.take 343 = (List.range 343).map fun k => nibOf s.params (c k) := by
    refine List.ext_getElem (by simpa using hlen) fun k _ hk => ?_
    have hlt : k < 343 := by simpa using hk
    rw [List.getElem_take, List.getElem_map, List.getElem_range, ← Option.some_inj, ← List.getElem?_eq_getElem,
      ← hcodes k hlt, nib_getElem?]
  have hloop : undoXor s.params 0 0#6 (enc.take 343) = .ok ((List.range 343).map v) := by
    rw [hbytes]
    exact undoXor_range_map hnib (by rw [hfirst, BitVec.xor_zero]) hnext 0 343
  have hv : ∀ {j}, j < 343 → ((List.range 343).map v).getD j 0#6 = v j := fun hj => getD_range_map v hj 0#6
  refine ⟨_, exec_nicDec_of_ok (nicDec_of_undoXor_ok hloop), sectorOf_length _ _, fun k hk => ?_⟩
  simp only [sectorOf_getD _ _ hk, code_append_crumb_div, code_append_crumb_mod, lut_getElem?_eq_some_iff]
  refine ⟨by rw [hv (by omega)], fun hlt => ?_, fun hle hlt => ?_, fun hle => ?_⟩
  · obtain ⟨hlook, -, -⟩ := lutOf_pairDec h0 h1 h2 (v k)
    rw [lowOf_first _ _ hlt, hv (by omega), hlook]
  · obtain ⟨-, hlook, -⟩ := lutOf_pairDec h0 h1 h2 (v (k - 86))
    rw [lowOf_second _ _ hle hlt, hv (by omega), hlook]
  · obtain ⟨-, -, hlook⟩ := lutOf_pairDec h0 h1 h2 (v (k - 172))
    rw [lowOf_third _ _ hle, hv (by omega), hlook]

end Sys2Proof.Machine
end

section
/-! PROOFS. The sector codec and the data field of a record give the sector back (R106, R108). -/

namespace Sys2Proof.Machine

/-! ### The round trip of the 6-and-2 payload -/

/-- The first 86 codes hold the low bits of three bytes each (R72). -/
theorem payloadCode_of_lt (P : Params) (raw : List Byte) {k : Nat} (hk : k < 86) :
    payloadCode P raw k = pairEnc P (lowBits raw k) (lowBits raw (k + 86)) (lowBits raw (k + 172)) := by
  simp [payloadCode, if_pos hk, pairEnc, lutOf_eq_getD]

/-- The others hold the top six bits of one byte each (R72). -/
theorem payloadCode_add (P : Params) (raw : List Byte) (k : Nat) :
    payloadCode P raw (86 + k) = BitVec.ofNat 6 ((raw.getD k 0x00#8).toNat / 4) := by
  rw [payloadCode, if_neg (by omega), Nat.add_sub_cancel_left]

/-- PAIR.DEC finds the low bits of byte `k` in the code that holds them: `k`, `k - 86` or `k - 172` (R92, R104). -/
theorem lowOf_payloadCodes {P : Params} (h0 : Params.LutOk P.lut0 0x03#6) (h1 : Params.LutOk P.lut1 0x0C#6)
    (h2 : Params.LutOk P.lut2 0x30#6) {raw : List Byte} {v : List Code} (hv : ∀ k, v.getD k 0#6 = payloadCode P raw k)
    {k : Nat} (hk : k < 256) : lowOf P v k = lowBits raw k := by
  have hpair := fun j => pairDec_pairEnc h0 h1 h2 (lowBits raw j) (lowBits raw (j + 86)) (lowBits raw (j + 172))
  by_cases hfirst : k < 86
  · obtain ⟨hback, -, -⟩ := hpair k
    rw [lowOf_first _ _ hfirst, hv, payloadCode_of_lt _ _ hfirst, hback]
  by_cases hsecond : k < 172
  · obtain ⟨-, hback, -⟩ := hpair (k - 86)
    rw [lowOf_second _ _ (by omega) hsecond, hv, payloadCode_of_lt _ _ (by omega), hback, Nat.sub_add_cancel (by omega)]
  · obtain ⟨-, -, hback⟩ := hpair (k - 172)
    rw [lowOf_third _ _ (by omega), hv, payloadCode_of_lt _ _ (by omega), hback, Nat.sub_add_cancel (by omega)]

/-- A sector is put together again from its codes. -/
theorem sectorOf_payloadCodes {P : Params} (hP : P.Admissible) {raw : List Byte} (hraw : raw.length = 256)
    {v : List Code} (hv : ∀ k, v.getD k 0#6 = payloadCode P raw k) : sectorOf P v = raw := by
  obtain ⟨-, -, h0, h1, h2, -⟩ := hP
  refine List.ext_getElem ((sectorOf_length P v).trans hraw.symm) fun k hk hk' => ?_
  have hlt : k < 256 := hraw ▸ hk'
  rw [← List.getD_eq_getElem _ 0x00#8 hk, ← List.getD_eq_getElem _ 0x00#8 hk', sectorOf_getD P v hlt, hv,
    payloadCode_add, lowOf_payloadCodes h0 h1 h2 hv hlt]
  exact ofNat_div_append_ofNat_mod _

/-- The code 0 that the closing byte decodes to is the default past the end. -/
theorem getD_sectorCodes_append_zero (P : Params) (raw : List Byte) (k : Nat) :
    (sectorCodes P raw ++ [0#6]).getD k 0#6 = payloadCode P raw k := by
  rw [← sectorCodes_getD]
  by_cases hk : k < (sectorCodes P raw).length
  · exact List.getD_append _ _ _ _ hk
  · rw [List.getD_append_right _ _ _ _ (Nat.le_of_not_lt hk), List.getD_eq_default _ _ (Nat.le_of_not_lt hk)]
    cases k - (sectorCodes P raw).length <;> rfl

/-- NIC.DEC reads the 343 bytes of the payload and no further, and undoes NIC.ENC (R106). -/
theorem nicDec_nicEnc_append {P : Params} (hP : P.Admissible) {raw : List Byte} (hraw : raw.length = 256)
    (more : List Byte) : nicDec P (nicEnc P raw ++ more) = .ok raw := by
  have hloop : undoXor P 0 0#6 ((nicEnc P raw ++ more).take 343) = .ok (sectorCodes P raw ++ [0#6]) := by
    rw [List.take_left' (nicEnc_length P hraw)]
    obtain ⟨hnib, -⟩ := hP
    exact undoXor_xorChain hnib 0 0#6 _
  rw [nicDec_of_undoXor_ok hloop, sectorOf_payloadCodes hP hraw (getD_sectorCodes_append_zero P raw)]

/-- Settles O15: the decoder's loop undoes the chain, and its tables and shifts undo the split into codes. -/
theorem sectorCodecRoundTrip : Obligations.SectorCodecRoundTrip := by
  unfold Obligations.SectorCodecRoundTrip
  exact fun s raw more hP hraw =>
    ⟨nicEnc s.params raw, rfl, exec_nicDec_of_ok (nicDec_nicEnc_append hP hraw more)⟩

/-! ### FIELD.DEC -/

theorem exec_fieldDec_of_ok {s : State} {d raw : List Byte} (h : fieldDec s.params d = .ok raw) :
    exec (.fieldDec d) s = .next { s with answer := .bytes raw } := by
  change execFieldDec d s = _
  rw [execFieldDec, h]
  rfl

theorem exec_fieldDec_of_error {s : State} {d : List Byte} {e : ErrorOutcome} (h : fieldDec s.params d = .error e) :
    exec (.fieldDec d) s = .next { s with answer := .skip e } := by
  change execFieldDec d s = _
  rw [execFieldDec, h]
  rfl

theorem fieldDec_of_no_prologue {P : Params} {d : List Byte} (h : d.take 3 ≠ dataPrologue) :
    fieldDec P d = .error .prologue := if_neg h

/-- Behind the data prologue the outcome is NIC.DEC's, its error turned into the skip outcome (R108). -/
theorem fieldDec_dataPrologue_append (P : Params) (payload : List Byte) :
    fieldDec P (dataPrologue ++ payload) = (nicDec P payload).mapError .decode := by
  have hprologue : (dataPrologue ++ payload).take 3 = dataPrologue := rfl
  have hrest : (dataPrologue ++ payload).drop 3 = payload := rfl
  rw [fieldDec, if_pos hprologue, hrest]
  cases nicDec P payload <;> rfl

/-- The data prologue and the payload are the 346 bytes at offset 53 of a record (R65, R100). -/
theorem secEnc_dataField (P : Params) (T : Nat) (p : Fin 16) {raw : List Byte} (hraw : raw.length = 256) :
    ((secEnc P T p raw).drop 53).take 346 = dataPrologue ++ nicEnc P raw := by
  have hbefore : (syncBytes 22 ++ P.selfSync.toList ++
      addrEnc Config.volume (BitVec.ofNat 8 T) (BitVec.ofNat 8 p.val) ++ syncBytes 5).length = 53 := by
    simp [syncBytes, addrEnc_length]
  have hfield : (dataPrologue ++ nicEnc P raw).length = 346 := by
    rw [List.length_append, nicEnc_length P hraw]
    rfl
  have hrecord : secEnc P T p raw = (syncBytes 22 ++ P.selfSync.toList ++
      addrEnc Config.volume (BitVec.ofNat 8 T) (BitVec.ofNat 8 p.val) ++ syncBytes 5) ++
      ((dataPrologue ++ nicEnc P raw) ++ (P.dataEpilogue.toList ++ syncBytes 14)) := by
    simp only [secEnc, List.append_assoc]
  rw [hrecord, List.drop_left' hbefore, List.take_left' hfield]

/-- Settles O19: the prologue decides between the skip and NIC.DEC's outcome; a record's data field is a valid one. -/
theorem fieldDecOutcomes : Obligations.FieldDecOutcomes := by
  unfold Obligations.FieldDecOutcomes
  refine fun s => ⟨fun d0 d1 d2 payload _ => ⟨fun hno => ?_, ?_⟩, fun T p raw hP _ hraw => ?_⟩
  · refine exec_fieldDec_of_error (fieldDec_of_no_prologue fun h => hno ?_)
    simpa [dataPrologue] using h
  · rintro ⟨rfl, rfl, rfl⟩
    have hfield := fieldDec_dataPrologue_append s.params payload
    cases hdec : nicDec s.params payload with
    | ok raw =>
      rw [hdec] at hfield
      exact .inl ⟨raw, exec_nicDec_of_ok hdec, exec_fieldDec_of_ok hfield⟩
    | error k =>
      rw [hdec] at hfield
      exact .inr ⟨k, exec_nicDec_of_error hdec, exec_fieldDec_of_error hfield⟩
  · refine ⟨secEnc s.params T (slotOf p) raw, rfl, exec_fieldDec_of_ok ?_⟩
    have hdec := nicDec_nicEnc_append hP hraw []
    rw [List.append_nil] at hdec
    rw [secEnc_dataField s.params T (slotOf p) hraw, fieldDec_dataPrologue_append, hdec]
    rfl

end Sys2Proof.Machine
end

section
/-! PROOFS. The tracker: one sample, sequences of samples, and a forced position (R109 to R115, R152). -/

namespace Sys2Proof.Machine

/-! ### Phase samples and the clamp -/

theorem sampleOf_eq_ofNat (k : Fin 4) : sampleOf k = BitVec.ofNat 4 (2 ^ k.val) := by revert k; decide

theorem oneHot_eq_none {sample : BitVec 4} : oneHot sample = none ↔ ∀ k, sample ≠ sampleOf k := by
  simp [Option.eq_none_iff_forall_ne_some, oneHot_eq_some]

theorem clamp_eq_min_max {lo hi : Int} (h : lo ≤ hi) (x : Int) : clamp x lo hi = min (max x lo) hi := by
  unfold clamp
  split
  · omega
  · split <;> omega

theorem toNat_clamp_zero (x : Int) (hi : Nat) : ((clamp x 0 hi).toNat : Int) = min (max x 0) hi := by
  rw [clamp_eq_min_max (by omega)]
  omega

/-! ### The four cases of a transition (R110) -/

@[simp] theorem Head.move_last (h : Head) (ofs : Fin 4) : (h.move ofs).last = ofs := rfl

theorem Head.move_eq (h : Head) (ofs : Fin 4) :
    h.move ofs = { phys := (h.move ofs).phys, log := (h.move ofs).phys / 2, phase := ofs, last := ofs } := rfl

/-- The same phase, the next, the one before, and the opposite are four different phases. -/
theorem phase_neighbours_ne (k : Fin 4) :
    k + 1 ≠ k ∧ k - 1 ≠ k ∧ k - 1 ≠ k + 1 ∧ k + 2 ≠ k ∧ k + 2 ≠ k + 1 ∧ k + 2 ≠ k - 1 := by revert k; decide

theorem Head.move_phys_same (h : Head) : (h.move h.last).phys = h.phys := if_pos rfl

theorem Head.move_phys_next (h : Head) : ((h.move (h.last + 1)).phys : Int) = min (max ((h.phys : Int) + 1) 0) 69 := by
  obtain ⟨hsame, -⟩ := phase_neighbours_ne h.last
  have hphys : (h.move (h.last + 1)).phys = (clamp ((h.phys : Int) + 1) 0 69).toNat :=
    (if_neg hsame).trans (if_pos rfl)
  rw [hphys]
  exact toNat_clamp_zero _ 69

theorem Head.move_phys_prev (h : Head) : ((h.move (h.last - 1)).phys : Int) = min (max ((h.phys : Int) - 1) 0) 69 := by
  obtain ⟨-, hsame, hnext, -⟩ := phase_neighbours_ne h.last
  have hphys : (h.move (h.last - 1)).phys = (clamp ((h.phys : Int) - 1) 0 69).toNat :=
    (if_neg hsame).trans ((if_neg hnext).trans (if_pos rfl))
  rw [hphys]
  exact toNat_clamp_zero _ 69

theorem Head.move_phys_opposite (h : Head) : (h.move (h.last + 2)).phys = h.phys := by
  obtain ⟨-, -, -, hsame, hnext, hprev⟩ := phase_neighbours_ne h.last
  exact (if_neg hsame).trans ((if_neg hnext).trans (if_neg hprev))

/-! ### One sample -/

/-- A reading that is not one-hot is recorded and otherwise ignored (R109). -/
theorem exec_stpSample_of_noise {sample : BitVec 4} (h : oneHot sample = none) (s : State) :
    exec (.stpSample sample) s = .next { s with pin := { s.pin with phase := sample }, answer := .ignored } := by
  change execStpSample sample s = _
  simp [execStpSample, sampleHead, h, ignore, answer]

theorem exec_stpSample_sampleOf (ofs : Fin 4) (s : State) :
    exec (.stpSample (sampleOf ofs)) s = .next
      { s with pin := { s.pin with phase := sampleOf ofs }, head := s.head.move ofs, answer := .ok } := by
  change execStpSample (sampleOf ofs) s = _
  simp [execStpSample, sampleHead, oneHot_sampleOf, answer]

/-- Settles O20: a sample is noise or has an index, and the index is one of the four neighbours of `head.last`. -/
theorem stpSampleTransition : Obligations.StpSampleTransition := by
  unfold Obligations.StpSampleTransition
  refine fun s => ⟨fun sample ⟨h1, h2, h4, h8⟩ => ?_, fun ofs => ⟨(s.head.move ofs).phys, ?_, ?_, ?_, ?_, ?_⟩⟩
  · exact exec_stpSample_of_noise (by simp [oneHot, h1, h2, h4, h8]) s
  · rw [← sampleOf_eq_ofNat, ← Head.move_eq]
    exact exec_stpSample_sampleOf ofs s
  · rintro rfl
    exact s.head.move_phys_same
  · intro hnext
    obtain rfl : ofs = s.head.last + 1 := Fin.ext hnext
    exact s.head.move_phys_next
  · intro hprev
    obtain rfl : ofs = s.head.last - 1 := by omega
    exact s.head.move_phys_prev
  · intro hopposite
    obtain rfl : ofs = s.head.last + 2 := Fin.ext hopposite
    exact s.head.move_phys_opposite

/-! ### Sequences of samples (R115) -/

/-- A run goes on from the state its first sample leaves, of which only the head matters here. -/
theorem exists_exec_stpSample (ofs : Fin 4) (s : State) :
    ∃ t, exec (.stpSample (sampleOf ofs)) s = .next t ∧ t.head = s.head.move ofs :=
  ⟨_, exec_stpSample_sampleOf ofs s, rfl⟩

theorem stpFwd_moves {s : State} (hs : s.head.phys ≤ 69) (n : Nat) :
    ∃ t, stpFwd n s = .next t ∧ t.head.phys = min (s.head.phys + n) 69 ∧
      t.head.last.val = (s.head.last.val + n) % 4 := by
  induction n generalizing s with
  | zero => exact ⟨s, rfl, by omega, by omega⟩
  | succ n ih =>
    obtain ⟨u, hu, hhead⟩ := exists_exec_stpSample (s.head.last + 1) s
    have hphys : (u.head.phys : Int) = min (max ((s.head.phys : Int) + 1) 0) 69 := hhead ▸ s.head.move_phys_next
    have hlast : u.head.last.val = (s.head.last.val + 1) % 4 := by rw [hhead]; rfl
    obtain ⟨t, ht, htphys, htlast⟩ := ih (s := u) (by omega)
    refine ⟨t, ?_, by omega, by omega⟩
    rw [stpFwd, hu, andThen_next, ht]

theorem stpBwd_moves {s : State} (hs : s.head.phys ≤ 69) (n : Nat) :
    ∃ t, stpBwd n s = .next t ∧ t.head.phys = s.head.phys - n := by
  induction n generalizing s with
  | zero => exact ⟨s, rfl, rfl⟩
  | succ n ih =>
    obtain ⟨u, hu, hhead⟩ := exists_exec_stpSample (s.head.last - 1) s
    have hphys : (u.head.phys : Int) = min (max ((s.head.phys : Int) - 1) 0) 69 := hhead ▸ s.head.move_phys_prev
    obtain ⟨t, ht, htphys⟩ := ih (s := u) (by omega)
    refine ⟨t, ?_, by omega⟩
    rw [stpBwd, hu, andThen_next, ht]

theorem runOps_repeated_stpSample (s : State) (n : Nat) :
    ∃ t, runOps (List.replicate n (.stpSample (sampleOf s.head.last))) s = .next t ∧
      t.head.phys = s.head.phys ∧ t.head.last = s.head.last := by
  induction n generalizing s with
  | zero => exact ⟨s, rfl, rfl, rfl⟩
  | succ n ih =>
    obtain ⟨u, hu, hhead⟩ := exists_exec_stpSample s.head.last s
    have hphys : u.head.phys = s.head.phys := hhead ▸ s.head.move_phys_same
    have hlast : u.head.last = s.head.last := by rw [hhead, Head.move_last]
    obtain ⟨t, ht, htphys, htlast⟩ := ih u
    refine ⟨t, ?_, htphys.trans hphys, htlast.trans hlast⟩
    rw [List.replicate_succ, runOps, hu, andThen_next, ← hlast, ht]

/-- Settles O21: each of the four cases of a transition, iterated by induction on the number of samples. -/
theorem trackerLaw : Obligations.TrackerLaw := by
  unfold Obligations.TrackerLaw
  intro s hs
  obtain ⟨t, ht, hhead⟩ := exists_exec_stpSample (s.head.last + 2) s
  exact ⟨stpFwd_moves hs, stpBwd_moves hs, ⟨t, ht, hhead ▸ s.head.move_phys_opposite, by rw [hhead, Head.move_last]⟩,
    runOps_repeated_stpSample s⟩

/-! ### A forced position (R114, R152) -/

@[simp] theorem Head.force_phys (h : Head) (T : Nat) (sample : BitVec 4) : (h.force T sample).phys = T * 2 := by
  unfold Head.force
  split <;> rfl

@[simp] theorem Head.force_log (h : Head) (T : Nat) (sample : BitVec 4) : (h.force T sample).log = T := by
  unfold Head.force
  split <;> rfl

theorem Head.force_sampleOf (h : Head) (T : Nat) (k : Fin 4) :
    h.force T (sampleOf k) = { phys := T * 2, log := T, phase := k, last := k } := by
  rw [Head.force, oneHot_sampleOf]

theorem Head.force_of_noise {sample : BitVec 4} (hnoise : oneHot sample = none) (h : Head) (T : Nat) :
    h.force T sample = { h with phys := T * 2, log := T } := by
  rw [Head.force, hnoise]

theorem exec_dbgSettrk_of_le {s : State} {T : Nat} (hidle : s.wc.state = .idle) (hT : T ≤ 34) (sample : BitVec 4) :
    exec (.dbgSettrk T sample) s = .next
      { s with pin := { s.pin with phase := sample }, head := s.head.force T sample, answer := .ok } :=
  (if_neg (not_armed_iff.2 hidle)).trans (if_neg (Nat.not_lt.2 hT))

theorem exec_dbgSettrk_of_lt {s : State} {T : Nat} (hidle : s.wc.state = .idle) (hT : 34 < T) (sample : BitVec 4) :
    exec (.dbgSettrk T sample) s = .next { s with answer := .error .range } :=
  (if_neg (not_armed_iff.2 hidle)).trans (if_pos hT)

/-- Settles O22: both operations put the head `Head.force` gives in place, DBG.SETTRK behind its two guards. -/
theorem stpForceAndSettrkForceTheHead : Obligations.StpForceAndSettrkForceTheHead := by
  unfold Obligations.StpForceAndSettrkForceTheHead
  intro s T sample
  refine ⟨fun hT => ⟨s.head.force T sample, rfl, ?_, s.head.force_log T sample, fun ofs hofs => ?_, fun hnoise => ?_,
    fun hidle => exec_dbgSettrk_of_le hidle hT sample⟩, fun hbusy => guarded_eq_refused hbusy _,
    fun hidle hT => exec_dbgSettrk_of_lt hidle hT sample⟩
  · rw [Head.force_phys, Nat.mul_comm]
  · rw [hofs, ← sampleOf_eq_ofNat, Head.force_sampleOf]
    exact ⟨rfl, rfl⟩
  · rw [Head.force_of_noise (oneHot_eq_none.2 fun ofs => sampleOf_eq_ofNat ofs ▸ hnoise ofs)]
    exact ⟨rfl, rfl⟩

end Sys2Proof.Machine
end

section
/-! PROOFS. The reader: one bit cell, the operations that stop, restore and start it, and drive-select (R118 to R123,
R127). -/

namespace Sys2Proof.Machine

/-! ### The advance of the position -/

theorem refresh_invalid {c : Cache} (h : c.track = none) (r : Reader) : refresh c r = r := by simp [refresh, h]

theorem refresh_valid {c : Cache} (h : c.track ≠ none) (r : Reader) :
    refresh c r = { r with buf := c.data, filled := true } := if_pos (Option.isSome_iff_ne_none.2 h)

theorem Reader.advance_within_byte {r : Reader} (hbit : r.bit < 7) (c : Cache) :
    r.advance c = { r with bit := r.bit + 1 } := if_neg (by omega)

theorem Reader.advance_next_byte {r : Reader} (hbit : r.bit = 7) (hbyte : r.byte < 6655) (c : Cache) :
    r.advance c = { r with byte := r.byte + 1, bit := 0 } := by
  rw [Reader.advance, if_pos (by omega), if_neg (by omega)]

theorem Reader.advance_wrap {r : Reader} (hbit : r.bit = 7) (hbyte : r.byte = 6655) (c : Cache) :
    r.advance c = refresh c { r with byte := 0, bit := 0 } := by
  rw [Reader.advance, if_pos (by omega), if_pos (by omega)]

/-- The three cases of the advance, the wrap with and without a cache to copy (R118, R119). -/
theorem Reader.advance_eq {r : Reader} (hfilled : r.filled = true) (hbyte : r.byte < 6656) (hbit : r.bit < 8)
    (c : Cache) :
    r.advance c =
      if r.bit < 7 then { r with bit := r.bit + 1 }
      else if r.byte < 6655 then { r with byte := r.byte + 1, bit := 0 }
      else if c.track = none then { r with byte := 0, bit := 0 }
      else { r with buf := c.data, byte := 0, bit := 0 } := by
  split
  · exact Reader.advance_within_byte ‹_› c
  · split
    · exact Reader.advance_next_byte (by omega) ‹_› c
    · rw [Reader.advance_wrap (by omega) (by omega)]
      split
      · exact refresh_invalid ‹_› _
      · rw [refresh_valid ‹_›, ← hfilled]

/-! ### One bit cell -/

/-- A running reader puts the bit at its position on `pin.rd` while the drive is selected, and advances (R118, R120). -/
theorem exec_rdClk_of_run {s : State} (hrun : s.rd.run = true) (hfilled : s.rd.filled = true)
    (hbyte : s.rd.byte < 6656) :
    exec .rdClk s = .next
      { s with
        pin := { s.pin with rd := !s.pin.selN && lineBit (s.rd.buf.read s.rd.byte) s.rd.bit }
        rd := s.rd.advance s.cache
        answer := .ok } := by
  have hread : s.rd.buf.block s.rd.byte 1 = [s.rd.buf.read s.rd.byte] := rfl
  change execRdClk s = _
  simp [execRdClk, readBlock, State.holdsValue, Pins.selected, answer, hrun, hfilled, Nat.succ_le_of_lt hbyte, hread]

/-- Settles O23: the guard of RD.CLK, and the three cases of the advance. -/
theorem rdClkOneBitCell : Obligations.RdClkOneBitCell := by
  unfold Obligations.RdClkOneBitCell
  refine ⟨fun s hstop => if_pos hstop, fun s hrun hfilled hbyte hbit => ?_⟩
  rw [exec_rdClk_of_run hrun hfilled hbyte, Reader.advance_eq hfilled hbyte hbit]
  rfl

/-! ### Stop, restore, start, select -/

theorem exec_rdRestore_valid {s : State} (h : s.cache.track ≠ none) :
    exec .rdRestore s = .next
      { s with rd := { run := true, buf := s.cache.data, filled := true, byte := 0, bit := 0 }, answer := .ok } := by
  obtain ⟨T, hT⟩ := Option.ne_none_iff_exists'.1 h
  rw [← restoreReader_rd_valid s hT]
  rfl

theorem exec_rdRestore_invalid {s : State} (h : s.cache.track = none) :
    exec .rdRestore s = .next { s with rd := { s.rd with byte := 0, bit := 0 }, answer := .ok } := by
  rw [← restoreReader_rd_invalid s h]
  rfl

theorem exec_rdStart_valid {s : State} (hrun : s.rd.run = false) (hidle : s.wc.state = .idle)
    (h : s.cache.track ≠ none) :
    exec .rdStart s = .next
      { s with rd := { run := true, buf := s.cache.data, filled := true, byte := 0, bit := 0 }, answer := .ok } :=
  (if_pos ⟨hrun, hidle⟩).trans (if_pos (Option.isSome_iff_ne_none.2 h))

theorem exec_rdStart_invalid {s : State} (hrun : s.rd.run = false) (hidle : s.wc.state = .idle)
    (h : s.cache.track = none) : exec .rdStart s = .refused (.noValue .enc) :=
  (if_pos ⟨hrun, hidle⟩).trans (if_neg (by simp [h]))

/-- Settles O24: RD.RESTORE and RD.START by the tag of the cache, RD.START behind its guard. -/
theorem readerStopRestoreStart : Obligations.ReaderStopRestoreStart := by
  unfold Obligations.ReaderStopRestoreStart
  exact fun s => ⟨rfl, exec_rdRestore_valid, exec_rdRestore_invalid, exec_rdStart_valid, exec_rdStart_invalid,
    fun hguard => if_neg hguard⟩

/-- Settles O25: each level is one update of the pins. -/
theorem evSelEffect : Obligations.EvSelEffect := by
  unfold Obligations.EvSelEffect
  exact fun s => ⟨rfl, rfl⟩

end Sys2Proof.Machine
end

section
/-! PROOFS. The stream of a running reader: what an operation leaves of it, and the bits of a run (R124). -/

namespace Sys2Proof.Machine

/-! ### The bits of the stream -/

/-- Bit `k` of the endless stream of a track: byte `(k mod 53248) / 8`, bit 7 of each byte first (R46, R124). -/
def trackBit (data : Memory) (k : Nat) : Bool := lineBit (data.read (k % 53248 / 8)) (k % 8)

/-- The stream depends on the reader and the cached track only. -/
theorem State.StreamAt.congr {s t : State} {n : Nat} (hs : s.StreamAt n) (hrd : t.rd = s.rd)
    (hdata : t.cache.data = s.cache.data) : t.StreamAt n := by
  rwa [State.StreamAt, hrd, hdata]

/-- The advance counts one bit modulo 53248; at the wrap the snapshot is the cache, copied again or not (R119). -/
theorem State.StreamAt.advance {s t : State} {n : Nat} (hs : s.StreamAt n) (hrd : t.rd = s.rd.advance s.cache)
    (hdata : t.cache.data = s.cache.data) : t.StreamAt (n + 1) := by
  obtain ⟨hrun, hfilled, hbuf, hbyte, hbit⟩ := hs
  rw [State.StreamAt, hdata, hrd, Reader.advance_eq hfilled (by omega) (by omega)]
  split
  · exact ⟨hrun, hfilled, hbuf, by dsimp only; omega, by dsimp only; omega⟩
  · split
    · exact ⟨hrun, hfilled, hbuf, by dsimp only; omega, by dsimp only; omega⟩
    · split
      · exact ⟨hrun, hfilled, hbuf, by dsimp only; omega, by dsimp only; omega⟩
      · exact ⟨hrun, hfilled, rfl, by dsimp only; omega, by dsimp only; omega⟩

/-- RD.CLK emits the bit of the count, or 0 while the drive is deselected, and moves the stream on (R118 to R120). -/
theorem State.StreamAt.exec_rdClk {s : State} {n : Nat} (hs : s.StreamAt n) :
    ∃ t, exec .rdClk s = .next t ∧ t.StreamAt (n + 1) ∧ t.cache = s.cache ∧ t.pin.selN = s.pin.selN ∧
      t.pin.rd = (!s.pin.selN && trackBit s.cache.data n) := by
  obtain ⟨hrun, hfilled, hbuf, hbyte, hbit⟩ := id hs
  refine ⟨_, exec_rdClk_of_run hrun hfilled (by omega), hs.advance rfl rfl, rfl, rfl, ?_⟩
  rw [trackBit, ← hbuf, ← hbyte, ← hbit]

/-! ### What the other operations leave of a running reader -/

/-- The RD.START at the end of a track change does nothing to a reader that runs (R123, R144). -/
theorem changeTrack_rd {T : Nat} {s t : State} (hrun : s.rd.run = true) (h : changeTrack T s = .next t) :
    t.rd = s.rd := by
  obtain ⟨u, v, hu, hv, ht⟩ := changeTrack_eq_next h
  have hsu : u.rd = s.rd := by
    split at hu
    · exact (reconcile_keeps hu).2
    · cases hu
      rfl
  obtain ⟨-, -, huv⟩ := rebuild_keeps hv
  have hsv : v.rd = s.rd := huv.trans hsu
  obtain ⟨hstop, -⟩ | ⟨-, rfl⟩ := startReader_eq_next ht
  · simp [hsv, hrun] at hstop
  · exact hsv

theorem select_rd {T : Nat} {s t : State} (hrun : s.rd.run = true) (h : select T s = .next t) : t.rd = s.rd := by
  obtain ⟨-, ⟨-, rfl⟩ | ⟨-, -, rfl⟩ | ⟨-, -, hc⟩⟩ := select_eq_next h
  · rfl
  · rfl
  · exact changeTrack_rd hrun hc

/-- A running reader is moved by RD.CLK only, as long as nothing stops or restarts it (R118, R121 to R123). -/
theorem exec_keeps_rd {i : Instr} {s t : State} (hrun : s.rd.run = true) (hclk : i ≠ .rdClk)
    (hkeep : ¬breaksStream i s) (h : exec i s = .next t) : t.rd = s.rd := by
  cases i with
  | rdClk => exact absurd rfl hclk
  | rdStop | rdRestore | reset => simp [breaksStream] at hkeep
  | nibEnc _ | nibDec _ | n44Enc _ | n44Dec _ _ | pairEnc _ _ _ | pairDec _ | ilvP2l _ | ilvL2p _ | nicEnc _
  | addrEnc _ _ _ | secEnc _ _ _ | trkEnc _ _ | nicDec _ | addrDec _ | fieldDec _ =>
    obtain ⟨a, rfl⟩ := exec_function_eq_next rfl h
    rfl
  | stpForce _ _ | evSel _ | wcAppend _ | dbgDump =>
    obtain rfl := answer_eq_next.1 h
    rfl
  | stpSample x =>
    obtain ⟨a, rfl⟩ := execStpSample_eq_next h
    exact sampleHead_rd x s
  | rdStart =>
    obtain ⟨hstop, -⟩ | ⟨-, rfl⟩ := startReader_eq_next h
    · simp [hrun] at hstop
    · rfl
  | wcEnter =>
    obtain ⟨-, rfl⟩ | ⟨hidle, -⟩ := execWcEnter_eq_next h
    · rfl
    · simp [breaksStream, hidle] at hkeep
  | wcEdge =>
    obtain rfl | ⟨-, -, rfl⟩ := execWcEdge_eq_next h <;> rfl
  | wcTick =>
    obtain rfl | ⟨-, -, rfl⟩ := execWcTick_eq_next h <;> rfl
  | wcExit =>
    obtain ⟨-, rfl⟩ | ⟨hsampling, -⟩ := execWcExit_eq_next h
    · rfl
    · simp [breaksStream, hsampling] at hkeep
  | wcComplete =>
    obtain ⟨c, a, rfl, -⟩ := completeField_frame h
    rfl
  | tcSelect T => exact select_rd hrun h
  | tcReconcile =>
    obtain ⟨-, h⟩ := execTcReconcile_eq_next h
    obtain ⟨-, hrd⟩ := reconcile_keeps h
    exact hrd
  | tcRebuild T =>
    obtain ⟨-, h⟩ := execTcRebuild_eq_next h
    obtain ⟨-, -, hrd⟩ := rebuild_keeps h
    exact hrd
  | facTick x =>
    have hsample := sampleHead_rd x s
    obtain ⟨-, rfl⟩ | ⟨-, u, rfl | hu, rfl⟩ := execFacTick_eq_next h
    · exact hsample
    · exact hsample
    · exact (select_rd (by rwa [hsample]) hu).trans hsample
  | facLoad bytes =>
    obtain ⟨-, rfl⟩ := execFacLoad_eq_next h
    rfl
  | dbgRdsec n sec =>
    obtain ⟨a, rfl⟩ := execDbgRdsec_eq_next h
    rfl
  | dbgWrsec n sec data =>
    obtain ⟨-, ⟨-, rfl⟩ | ⟨-, -, rfl⟩⟩ := execDbgWrsec_eq_next h <;> rfl
  | dbgSettrk T x =>
    obtain ⟨-, ⟨-, rfl⟩ | ⟨-, rfl⟩⟩ := execDbgSettrk_eq_next h <;> rfl

theorem State.StreamAt.exec_other {i : Instr} {s t : State} {n : Nat} (hs : s.StreamAt n) (hclk : i ≠ .rdClk)
    (hkeep : ¬breaksStream i s) (h : exec i s = .next t) (hdata : t.cache.data = s.cache.data) : t.StreamAt n :=
  have ⟨hrun, _⟩ := hs
  hs.congr (exec_keeps_rd hrun hclk hkeep h) hdata

/-- Settles O27: a step is idle, or an RD.CLK, or an operation that leaves the running reader alone. -/
theorem everyStepKeepsTheStream : Obligations.EveryStepKeepsTheStream := by
  unfold Obligations.EveryStepKeepsTheStream
  intro s t n hs h hdata hkeep
  obtain ⟨hidle, rfl⟩ | ⟨i, rest, hd, hx⟩ := step_eq_next h
  · exact ⟨fun ⟨rest, hd⟩ => by simp [hidle, decode] at hd, fun _ => hs⟩
  · have hpending : { s with pending := rest }.StreamAt n := hs
    constructor
    · rintro ⟨rest', hd'⟩
      obtain ⟨rfl, rfl⟩ : i = .rdClk ∧ rest = rest' := by simpa [hd] using hd'
      obtain ⟨u, hu, hstream, -, -, hbit⟩ := hpending.exec_rdClk
      obtain rfl : u = t := by simpa [hu] using hx
      exact ⟨hstream, hbit⟩
    · intro hno
      have hclk : i ≠ .rdClk := fun hi => hno ⟨rest, hi ▸ hd⟩
      exact hpending.exec_other hclk (hkeep i rest hd) hx hdata

/-! ### Runs -/

theorem runBits_cons_eq_some {i : Instr} {is : List Instr} {s t : State} {out : List Bool}
    (h : runBits (i :: is) s = some (out, t)) :
    ∃ u bits, exec i s = .next u ∧ runBits is u = some (bits, t) ∧
      out = if i = .rdClk then u.pin.rd :: bits else bits := by
  rw [runBits] at h
  split at h
  · obtain ⟨⟨bits, t'⟩, hbits, heq⟩ := Option.map_eq_some_iff.1 h
    obtain ⟨rfl, rfl⟩ := Prod.mk.inj heq
    exact ⟨_, bits, by assumption, hbits, rfl⟩
  · cases h

/-- A steady run that begins at bit `n` of the stream emits one bit for each of its clocks, in order (R124). -/
theorem State.StreamAt.runBits {ops : List Instr} {s t : State} {out : List Bool} {n : Nat} (hs : s.StreamAt n)
    (hsteady : SteadyStream ops s) (h : runBits ops s = some (out, t)) :
    t.StreamAt (n + ops.count .rdClk) ∧ out = (List.range' n (ops.count .rdClk)).map (trackBit s.cache.data) := by
  induction ops generalizing s n out with
  | nil =>
    cases h
    exact ⟨hs, rfl⟩
  | cons i is ih =>
    obtain ⟨hsel, hkeep, hnext⟩ := hsteady
    obtain ⟨u, bits, hu, hbits, rfl⟩ := runBits_cons_eq_some h
    obtain ⟨hdata, hrest⟩ := hnext u hu
    by_cases hclk : i = .rdClk
    · subst hclk
      obtain ⟨u', hu', hstream, -, -, hbit⟩ := hs.exec_rdClk
      obtain rfl : u' = u := by simpa [hu'] using hu
      obtain ⟨ht, rfl⟩ := ih hstream hrest hbits
      rw [if_pos rfl, List.count_cons_self, List.range'_succ, List.map_cons, hbit, hsel, hdata]
      exact ⟨by rwa [Nat.add_right_comm] at ht, rfl⟩
    · obtain ⟨ht, rfl⟩ := ih (hs.exec_other hclk hkeep hu hdata) hrest hbits
      rw [if_neg hclk, List.count_cons_of_ne hclk, hdata]
      exact ⟨ht, rfl⟩

/-- Clocks alone stop and restart nothing. -/
theorem State.StreamAt.steady_clocks {s : State} {n : Nat} (hs : s.StreamAt n) (hsel : s.pin.selN = false) (m : Nat) :
    SteadyStream (List.replicate m .rdClk) s := by
  induction m generalizing s n with
  | zero => trivial
  | succ m ih =>
    obtain ⟨u, hu, hstream, hcache, husel, -⟩ := hs.exec_rdClk
    refine ⟨hsel, by simp [breaksStream], fun t ht => ?_⟩
    obtain rfl : u = t := by simpa [hu] using ht
    exact ⟨by rw [hcache], ih hstream (husel.trans hsel)⟩

theorem State.StreamAt.exists_rdRun {s : State} {n : Nat} (hs : s.StreamAt n) (m : Nat) :
    ∃ out t, rdRun m s = some (out, t) := by
  induction m generalizing s n with
  | zero => exact ⟨[], s, rfl⟩
  | succ m ih =>
    obtain ⟨u, hu, hstream, -⟩ := hs.exec_rdClk
    obtain ⟨out, t, ht⟩ := ih hstream
    exact ⟨u.pin.rd :: out, t, by simp [rdRun, hu, ht]⟩

/-- `RD.RUN n` (R84) is the run of `n` clocks. -/
theorem runBits_clocks (n : Nat) (s : State) : runBits (List.replicate n .rdClk) s = rdRun n s := by
  induction n generalizing s with
  | zero => rfl
  | succ n ih =>
    rw [List.replicate_succ, runBits, rdRun]
    split <;> simp [ih]

/-- Settles O26: RD.RESTORE and RD.START leave the position at 0, and a steady run counts on from there. -/
theorem readerPeriodicity : Obligations.ReaderPeriodicity := by
  unfold Obligations.ReaderPeriodicity
  refine ⟨fun s htrack => ⟨?_, fun hstop hidle => ?_⟩, fun s t ops out hs hsteady h => ?_, fun s n hs hsel => ?_⟩
  · exact ⟨_, exec_rdRestore_valid htrack, rfl, rfl, rfl, rfl, rfl⟩
  · exact ⟨_, exec_rdStart_valid hstop hidle htrack, rfl, rfl, rfl, rfl, rfl⟩
  · obtain ⟨ht, rfl⟩ := hs.runBits hsteady h
    simp only [List.length_map, List.length_range']
    refine ⟨trivial, by rwa [Nat.zero_add] at ht, fun k hk => ?_⟩
    simp [hk, trackBit, lineBit]
  · obtain ⟨out, t, hrun⟩ := hs.exists_rdRun n
    exact ⟨hs.steady_clocks hsel n, out, t, by rw [runBits_clocks, hrun], hrun⟩

end Sys2Proof.Machine
end

section
/-! PROOFS. WC.ENTER: what it leaves, and the slot its scan identifies (R129 to R131). -/

namespace Sys2Proof.Machine

/-! ### The registers WC.ENTER leaves -/

/-- From Idle WC.ENTER stops the reader, asserts write-enable and arms the engine (R129). -/
theorem exec_wcEnter_of_idle {s : State} (hidle : s.wc.state = .idle) :
    exec .wcEnter s = .next
      { s with
        pin := { s.pin with weN := false, rd := false }
        rd := { s.rd with run := false }
        wc := s.wc.entered s.params s.rd.byte (scanSector s.rd s.rd.byte)
        answer := .ok } := by
  change execWcEnter s = _
  rw [execWcEnter, if_neg (not_armed_iff.2 hidle), ← Capture.entered_of_state .locatingSector]
  rfl

/-- The count of R135 runs from the assertion of write-enable exactly when SKIP_ORIGIN says so. -/
theorem countsFromEnter_eq_decide (origin : SkipOrigin) : countsFromEnter origin = decide (origin = .we) := by
  cases origin <;> rfl

/-- Of an armed engine only the scan's three registers depend on the scan (R129, R131). -/
theorem Capture.entered_eq (wc : Capture) (P : Params) (pos : Nat) (found : Option (Fin 16)) :
    ∃ known phys log, wc.entered P pos found =
      { state := .sampling, pos := pos, known := known, phys := phys, log := log, shift := 0x00#8, nbits := 0,
        synced := false, buf := wc.buf, len := 0, cnt := 0, counting := decide (P.skipOrigin = .we),
        skipDone := false, timer := true } := by
  rw [← countsFromEnter_eq_decide]
  cases found with
  | none => exact ⟨_, _, _, rfl⟩
  | some p => exact ⟨_, _, _, rfl⟩

/-- Settles O28: the registers an accepted WC.ENTER leaves, those of the scan left open. -/
theorem wcEnterEffect : Obligations.WcEnterEffect := by
  unfold Obligations.WcEnterEffect
  intro s hidle
  obtain ⟨known, phys, log, heq⟩ := s.wc.entered_eq s.params s.rd.byte (scanSector s.rd s.rd.byte)
  exact ⟨known, phys, log, by rw [exec_wcEnter_of_idle hidle, heq]⟩

theorem Capture.entered_none_known (wc : Capture) (P : Params) (pos : Nat) :
    (wc.entered P pos none).known = false := rfl

theorem Capture.entered_some (wc : Capture) (P : Params) (pos : Nat) (p : Fin 16) :
    (wc.entered P pos (some p)).known = true ∧ (wc.entered P pos (some p)).phys = p.val ∧
      (wc.entered P pos (some p)).log = (p2l P p).val := ⟨rfl, rfl, rfl⟩

/-! ### The scan -/

theorem prologueAt_iff {buf : Memory} {q : Nat} : prologueAt buf q = true ↔ prologueStandsAt buf q := by
  simp [prologueAt, prologueStandsAt, and_assoc]

/-- Without a prologue among the 450 candidates the scan ends without a match (R130). -/
theorem locate_eq_none {buf : Memory} {pos : Nat} (h : ∀ k, k < 450 → ¬prologueStandsAt buf (backward pos k)) :
    locate buf pos = none := by
  rw [locate, List.find?_map, Option.map_eq_none_iff, List.find?_eq_none]
  exact fun k hk hp => h k (List.mem_range.1 hk) (prologueAt_iff.1 hp)

/-- The nearest prologue among the 450 candidates ends the scan (R130). -/
theorem locate_eq_some {buf : Memory} {pos k : Nat} (hk : k < 450) (hp : prologueStandsAt buf (backward pos k))
    (hfirst : ∀ j, j < k → ¬prologueStandsAt buf (backward pos j)) : locate buf pos = some (backward pos k) := by
  have hfind : (List.range 450).find? (prologueAt buf ∘ backward pos) = some k :=
    List.find?_range_eq_some.2 ⟨prologueAt_iff.2 hp, List.mem_range.2 hk, fun j hj =>
      Bool.not_eq_true' _ ▸ Bool.eq_false_iff.2 fun h => hfirst j hj (prologueAt_iff.1 h)⟩
  rw [locate, List.find?_map, hfind, Option.map_some]

theorem scanSector_of_not_filled {r : Reader} (h : r.filled = false) (pos : Nat) : scanSector r pos = none := by
  simp [scanSector, h]

theorem scanSector_of_locate_none {r : Reader} {pos : Nat} (h : locate r.buf pos = none) :
    scanSector r pos = none := by
  simp [scanSector, h]

/-- The sector value of the located field is a slot number, or no slot is identified (R131). -/
theorem scanSector_of_locate_some {r : Reader} {pos q : Nat} (hfilled : r.filled = true)
    (h : locate r.buf pos = some q) :
    scanSector r pos =
      if hv : (locatedSector r.buf q).toNat ≤ 15 then some ⟨(locatedSector r.buf q).toNat, by omega⟩ else none := by
  simp only [scanSector, hfilled, h, if_true]

/-- The field's bytes are read modulo the track length, from the match or from the candidate it came from. -/
theorem locatedSector_backward (buf : Memory) (pos k : Nat) :
    locatedSector buf (backward pos k) =
      n44Dec (buf.read ((pos + 6656 - k + 7) % 6656)) (buf.read ((pos + 6656 - k + 8) % 6656)) := by
  rw [locatedSector, backward, Nat.mod_add_mod, Nat.mod_add_mod]

/-- Settles O29: the scan's search, its sector value, and the registers WC.ENTER leaves for each result. -/
theorem wcEnterLocatesTheSector : Obligations.WcEnterLocatesTheSector := by
  unfold Obligations.WcEnterLocatesTheSector
  intro s t hidle _ h
  obtain rfl : _ = t := Host.Outcome.next.inj ((exec_wcEnter_of_idle hidle).symm.trans h)
  dsimp only
  refine ⟨fun hempty => ?_, fun hfilled => ⟨fun hnone => ?_, fun k hk hp hfirst v hv => ?_⟩⟩
  · rw [scanSector_of_not_filled hempty, Capture.entered_none_known]
  · rw [scanSector_of_locate_none (locate_eq_none hnone), Capture.entered_none_known]
  · have hscan := scanSector_of_locate_some hfilled (locate_eq_some hk hp hfirst)
    simp only [locatedSector_backward, ← hv] at hscan
    constructor
    · intro hlarge
      rw [hscan, dif_neg (by omega), Capture.entered_none_known]
    · intro hslot
      rw [hscan, dif_pos hslot]
      obtain ⟨hknown, hphys, hlog⟩ := s.wc.entered_some s.params s.rd.byte ⟨v.toNat, by omega⟩
      refine ⟨hknown, hphys, ?_⟩
      rw [hlog, p2l_getElem?_eq_some_iff (p := ⟨v.toNat, by omega⟩).2 rfl, Option.map_some]

end Sys2Proof.Machine
end

section
/-! PROOFS. The capture events: WC.EDGE and WC.TICK in Sampling, and every event out of place (R132, R133,
R141). -/

namespace Sys2Proof.Machine

/-! ### Ignored events -/

theorem exec_wcEnter_ignored {s : State} (h : s.wc.state ≠ .idle) :
    exec .wcEnter s = .next { s with answer := .ignored } := if_pos (armed_iff.2 h)

theorem exec_wcExit_ignored {s : State} (h : s.wc.state ≠ .sampling) :
    exec .wcExit s = .next { s with answer := .ignored } := if_pos h

theorem exec_wcEdge_ignored {s : State} (h : s.wc.state ≠ .sampling ∨ s.pin.selN = true) :
    exec .wcEdge s = .next { s with answer := .ignored } := by
  change execWcEdge s = _
  rw [execWcEdge]
  split
  · rfl
  · exact if_pos (by simpa [Pins.selected] using h.resolve_left ‹_›)

theorem exec_wcTick_ignored {s : State} (h : s.wc.state ≠ .sampling ∨ s.wc.timer = false) :
    exec .wcTick s = .next { s with answer := .ignored } := by
  refine if_neg fun ⟨hstate, htimer⟩ => ?_
  obtain h | h := h
  · exact h hstate
  · simp [h] at htimer

/-- Settles O39: the guard of each event fails. -/
theorem eventsOutOfPlaceAreIgnored : Obligations.EventsOutOfPlaceAreIgnored := by
  unfold Obligations.EventsOutOfPlaceAreIgnored
  exact fun s => ⟨exec_wcEnter_ignored, fun h =>
    ⟨exec_wcExit_ignored h, exec_wcEdge_ignored (.inl h), exec_wcTick_ignored (.inl h)⟩⟩

/-! ### Accepted events -/

/-- An accepted transition toggles the write-data level and appends a 1 (R132). -/
theorem exec_wcEdge_accepted {s : State} (hstate : s.wc.state = .sampling) (hsel : s.pin.selN = false) :
    exec .wcEdge s = exec (.wcAppend true) { s with pin := { s.pin with wd := !s.pin.wd } } :=
  (if_neg (not_not.2 hstate)).trans (if_neg (by simp [Pins.selected, hsel]))

/-- An expiry of the armed timer appends a 0 (R133). -/
theorem exec_wcTick_accepted {s : State} (hstate : s.wc.state = .sampling) (htimer : s.wc.timer = true) :
    exec .wcTick s = exec (.wcAppend false) s := if_pos ⟨hstate, htimer⟩

/-- Settles O31: the accepted events as WC.APPEND, the others by their guards. -/
theorem edgeAndTickAppendOneBit : Obligations.EdgeAndTickAppendOneBit := by
  unfold Obligations.EdgeAndTickAppendOneBit
  refine fun s => ⟨fun hstate hsel => ?_, fun hstate htimer => ?_, exec_wcEdge_ignored, exec_wcTick_ignored⟩
  · rw [exec_wcEdge_accepted hstate hsel]
    exact ⟨_, rfl, rfl⟩
  · rw [exec_wcTick_accepted hstate htimer]
    exact ⟨_, rfl, rfl⟩

end Sys2Proof.Machine
end

section
/-! PROOFS. WC.APPEND of one bit: counted, discarded, shifted in, or completing a byte (R134 to R137). -/

namespace Sys2Proof.Machine

/-- The shift register as a number (R134). -/
theorem shiftIn_eq_ofNat (shift : Byte) (b : Bool) : shiftIn shift b = BitVec.ofNat 8 (2 * shift.toNat + b.toNat) := by
  refine BitVec.eq_of_getLsbD_eq fun i hi => ?_
  rw [getLsbD_shiftIn shift b hi, BitVec.getLsbD_ofNat, decide_eq_true hi, Bool.true_and, Nat.mul_comm]
  cases i with
  | zero => cases b <;> simp [Nat.testBit_zero]
  | succ i =>
    have hhalf : (shift.toNat * 2 + b.toNat) / 2 = shift.toNat := by have := b.toNat_lt; omega
    rw [if_neg (by omega), Nat.testBit_succ, hhalf, Nat.add_sub_cancel, BitVec.getLsbD]

/-- The bit is being counted (R135). -/
abbrev Capture.Counted (wc : Capture) : Prop := wc.counting = true ∧ wc.skipDone = false

/-- `wc.cnt` after a bit that is counted, or not, without being the one to discard (R135). -/
def Capture.nextCnt (wc : Capture) : Nat := if wc.Counted then wc.cnt + 1 else wc.cnt

/-- The 25th counted bit enters no byte (R135). -/
theorem Capture.append_discarded {wc : Capture} (h : wc.Counted) (hcnt : wc.cnt = 24) (P : Params) (b : Bool) :
    wc.append P b = { wc with cnt := 25, skipDone := true } := by
  simp only [Capture.append, if_pos h, hcnt, if_true]

/-- Every other bit enters the byte in progress, counted first if the count runs (R134, R135). -/
theorem Capture.append_kept {wc : Capture} (h : ¬(wc.Counted ∧ wc.cnt = 24)) (P : Params) (b : Bool) :
    wc.append P b = { wc with cnt := wc.nextCnt }.shiftBit P b := by
  rw [Capture.append, Capture.nextCnt]
  by_cases hcounted : wc.Counted
  · have hcnt : wc.cnt + 1 ≠ 25 := fun heq => h ⟨hcounted, by omega⟩
    simp only [if_pos hcounted, if_neg hcnt]
  · simp only [if_neg hcounted]

/-- Settles O32: the discarded bit, and a shift that completes no byte. -/
theorem wcAppendShiftsOrDiscards : Obligations.WcAppendShiftsOrDiscards := by
  unfold Obligations.WcAppendShiftsOrDiscards
  refine fun s b => ⟨fun hcounting hdone hcnt => ?_, fun hkept hnbits => ?_⟩
  · change answer .ok (appendBit b s) = _
    rw [appendBit, Capture.append_discarded ⟨hcounting, hdone⟩ hcnt]
    rfl
  · change answer .ok (appendBit b s) = _
    rw [appendBit, Capture.append_kept (by rwa [and_assoc]), Capture.shiftBit, if_neg (by dsimp only; omega),
      shiftIn_eq_ofNat]
    rfl

/-! ### A completed byte -/

section
variable {wc : Capture} {P : Params} {b : Byte}

/-- Before synchronization every byte but 0xD5 is dropped (R136). -/
theorem Capture.completeByte_dropped (hsync : wc.synced = false) (hb : b ≠ 0xD5#8) : wc.completeByte P b = wc := by
  rw [Capture.completeByte, if_neg (by simp [hsync]), if_neg hb]

/-- 0xD5 starts the buffer, and the count too if SKIP_ORIGIN says so (R136). -/
theorem Capture.completeByte_sync (hsync : wc.synced = false) :
    wc.completeByte P 0xD5#8 =
      { wc with
        synced := true, buf := wc.buf.write 0 0xD5#8, len := 1
        counting := if P.skipOrigin = .sync then true else wc.counting
        cnt := if P.skipOrigin = .sync then P.skipPreload.count else wc.cnt } := by
  rw [Capture.completeByte, if_neg (by simp [hsync]), if_pos rfl]
  cases hP : P.skipOrigin <;> rfl

/-- After synchronization a byte is appended while there is room (R137). -/
theorem Capture.completeByte_appended (hsync : wc.synced = true) (hlen : wc.len < 350) :
    wc.completeByte P b = { wc with buf := wc.buf.write wc.len b, len := wc.len + 1 } := by
  rw [Capture.completeByte, if_pos hsync, if_pos hlen]

/-- A byte beyond the cap is dropped (R137). -/
theorem Capture.completeByte_full (hsync : wc.synced = true) (hlen : 350 ≤ wc.len) : wc.completeByte P b = wc := by
  rw [Capture.completeByte, if_pos hsync, if_neg (by omega)]

end

/-- The registers a completed byte leaves alone: the byte in progress, the located slot, the mode (R136, R137). -/
theorem Capture.completeByte_frame (wc : Capture) (P : Params) (b : Byte) :
    (wc.completeByte P b).shift = wc.shift ∧ (wc.completeByte P b).nbits = wc.nbits ∧
    (wc.completeByte P b).state = wc.state ∧ (wc.completeByte P b).pos = wc.pos ∧
    (wc.completeByte P b).known = wc.known ∧ (wc.completeByte P b).phys = wc.phys ∧
    (wc.completeByte P b).log = wc.log ∧ (wc.completeByte P b).skipDone = wc.skipDone ∧
    (wc.completeByte P b).timer = wc.timer := by
  unfold Capture.completeByte
  split
  · split <;> exact ⟨rfl, rfl, rfl, rfl, rfl, rfl, rfl, rfl, rfl⟩
  · split
    · dsimp only
      split <;> exact ⟨rfl, rfl, rfl, rfl, rfl, rfl, rfl, rfl, rfl⟩
    · exact ⟨rfl, rfl, rfl, rfl, rfl, rfl, rfl, rfl, rfl⟩

/-- A completed byte touches the count only where synchronization starts it (R135, R136). -/
theorem Capture.completeByte_cnt {wc : Capture} {P : Params} {b : Byte}
    (h : ¬(wc.synced = false ∧ b = 0xD5#8 ∧ P.skipOrigin = .sync)) : (wc.completeByte P b).cnt = wc.cnt := by
  cases hsync : wc.synced with
  | true =>
    by_cases hlen : wc.len < 350
    · rw [Capture.completeByte_appended hsync hlen]
    · rw [Capture.completeByte_full hsync (by omega)]
  | false =>
    by_cases hb : b = 0xD5#8
    · subst hb
      rw [Capture.completeByte_sync hsync]
      exact if_neg fun hP => h ⟨hsync, rfl, hP⟩
    · rw [Capture.completeByte_dropped hsync hb]

/-- The registers with which the eighth bit of a byte completes it (R134). -/
def Capture.byteReady (wc : Capture) (b : Bool) : Capture :=
  { wc with cnt := wc.nextCnt, shift := shiftIn wc.shift b, nbits := 0 }

theorem Capture.append_eighth {wc : Capture} (hnbits : wc.nbits = 7) (h : ¬(wc.Counted ∧ wc.cnt = 24)) (P : Params)
    (b : Bool) : wc.append P b = (wc.byteReady b).completeByte P (shiftIn wc.shift b) := by
  rw [Capture.append_kept h, Capture.shiftBit, if_pos (by dsimp only; omega)]
  rfl

/-- Settles O33: the eighth bit completes the shift register as a byte, and the byte's four outcomes. -/
theorem wcAppendCompletesAByte : Obligations.WcAppendCompletesAByte := by
  unfold Obligations.WcAppendCompletesAByte
  intro s b hwf hnbits hkept
  refine ⟨shiftIn s.wc.shift b, s.wc.append s.params b, shiftIn_eq_ofNat _ _, rfl, ?_⟩
  rw [Capture.append_eighth hnbits (by rwa [and_assoc])]
  obtain ⟨hshift, hn, hstate, hpos, hknown, hphys, hlog, hdone, htimer⟩ :=
    (s.wc.byteReady b).completeByte_frame s.params (shiftIn s.wc.shift b)
  refine ⟨hshift, hn, hstate, hpos, hknown, hphys, hlog, hdone, htimer, fun hsync hB => ?_, fun hsync hB => ?_,
    fun hsync hlen => ?_, fun hsync hlen => ?_, fun hno => ?_⟩
  · rw [Capture.completeByte_dropped (wc := s.wc.byteReady b) hsync hB]
    exact ⟨hsync, rfl, rfl, rfl⟩
  · rw [hB, Capture.completeByte_sync (wc := s.wc.byteReady b) hsync]
    refine ⟨rfl, rfl, ?_, fun a ha => ?_, fun hP => ⟨if_pos hP, if_pos hP⟩, fun hP => if_neg (by simp [hP])⟩
    · exact (Memory.read_write hwf _ _ _).trans (if_pos rfl)
    · exact (Memory.read_write hwf _ _ _).trans (if_neg ha)
  · rw [Capture.completeByte_appended (wc := s.wc.byteReady b) hsync hlen]
    refine ⟨hsync, rfl, ?_, fun a ha => ?_, rfl⟩
    · exact (Memory.read_write hwf _ _ _).trans (if_pos rfl)
    · exact (Memory.read_write hwf _ _ _).trans (if_neg ha)
  · rw [Capture.completeByte_full (wc := s.wc.byteReady b) hsync hlen]
    exact ⟨hsync, rfl, rfl, rfl⟩
  · exact Capture.completeByte_cnt hno

end Sys2Proof.Machine
end

section
/-! PROOFS. WC.COMPLETE and WC.EXIT: the field installed or discarded, and the exit around it (R138 to R140, R165,
R168). -/

namespace Sys2Proof.Machine

/-! ### The tests of R165 on the buffer -/

/-- The captured field begins as a data field does (R139). -/
theorem take_block_eq_dataPrologue {m : Memory} {n : Nat} (hn : 3 ≤ n) :
    (m.block 0 n).take 3 = dataPrologue ↔ m.read 0 = 0xD5#8 ∧ m.read 1 = 0xAA#8 ∧ m.read 2 = 0xAD#8 := by
  have htake : (m.block 0 n).take 3 = [m.read 0, m.read 1, m.read 2] := by
    rw [Memory.block, ← List.map_take, List.take_range, Nat.min_eq_left hn]
    rfl
  rw [htake, dataPrologue]
  simp

section
variable {len : Nat} {captured : List Byte} {known : Bool} {track : Option Nat}

theorem completionOutcome_short (h : 1 ≤ len) (h' : len < 3) :
    completionOutcome len captured known track = some .notData :=
  (if_neg (by omega)).trans (if_pos h')

theorem completionOutcome_other_prologue (h : 3 ≤ len) (hcaptured : captured.take 3 ≠ dataPrologue) :
    completionOutcome len captured known track = some .notData :=
  (if_neg (by omega)).trans ((if_neg (by omega)).trans (if_pos hcaptured))

theorem completionOutcome_no_sector (h : 3 ≤ len) (hcaptured : captured.take 3 = dataPrologue)
    (hno : known = false ∨ track = none) : completionOutcome len captured known track = some .noSector := by
  rw [completionOutcome, if_neg (by omega), if_neg (by omega), if_neg (not_not.2 hcaptured)]
  split
  · rfl
  · exact if_pos (hno.resolve_left ‹_›)

end

/-! ### Discarding and installing -/

/-- A discarded field leaves its outcome and nothing else (R140). -/
theorem completeField_discards {s : State} {e : ErrorOutcome}
    (h : completionOutcome s.wc.len (s.wc.buf.block 0 s.wc.len) s.wc.known s.cache.track = some e) :
    completeField s = .next { s with answer := .error e } := by
  rw [completeField, h]
  rfl

/-- Settles O37: the first failing test of R165 names the outcome. -/
theorem wcCompleteDiscards : Obligations.WcCompleteDiscards := by
  unfold Obligations.WcCompleteDiscards
  refine fun s => ⟨fun hlen => ?_, fun hone hlen => ?_, fun hlen hother => ?_, fun hlen h0 h1 h2 hno => ?_⟩
  · exact completeField_discards (if_pos hlen)
  · exact completeField_discards (completionOutcome_short hone hlen)
  · exact completeField_discards
      (completionOutcome_other_prologue hlen fun h => hother ((take_block_eq_dataPrologue hlen).1 h))
  · exact completeField_discards
      (completionOutcome_no_sector hlen ((take_block_eq_dataPrologue hlen).2 ⟨h0, h1, h2⟩) hno)

/-- A field that passes the tests is written to its slot, at most 349 bytes of it, and the cache is dirty (R139). -/
theorem completeField_installs {s : State} (hphys : s.wc.phys < 16)
    (h : completionOutcome s.wc.len (s.wc.buf.block 0 s.wc.len) s.wc.known s.cache.track = none) :
    completeField s = .next
      { s with
        cache :=
          { s.cache with
            data := s.cache.data.writeList (fieldAddr s.wc.phys) (s.wc.buf.block 0 (min s.wc.len 349))
            dirty := true }
        answer := .ok } := by
  rw [completeField, h]
  dsimp only
  rw [writeBlock, Memory.block_length, if_pos (fieldAddr_add_le hphys _)]
  rfl

/-- Settles O36: all tests of R165 pass, and what is read back of the block written. -/
theorem wcCompleteInstallsTheField : Obligations.WcCompleteInstallsTheField := by
  unfold Obligations.WcCompleteInstallsTheField
  intro s hwf hlen h0 h1 h2 hknown hphys htrack
  have hpass := completionOutcome_eq_none.2
    ⟨hlen, (take_block_eq_dataPrologue hlen).2 ⟨h0, h1, h2⟩, hknown, Option.isSome_iff_ne_none.2 htrack⟩
  have hread := Memory.read_writeList hwf (a := fieldAddr s.wc.phys) (s.wc.buf.block 0 (min s.wc.len 349))
    (by simpa using fieldAddr_add_le hphys s.wc.len)
  simp only [Memory.block_length, fieldAddr] at hread
  refine ⟨_, completeField_installs hphys hpass, fun k hk => ?_, fun a ha => ?_⟩
  · rw [fieldAddr, hread, if_pos (by omega), Nat.add_sub_cancel_left, Memory.block_getD _ _ _ _ hk, Nat.zero_add]
  · rw [fieldAddr, hread, if_neg ha]

/-! ### WC.EXIT -/

/-- Field completion of a slot in range always has an outcome (R168). -/
theorem exists_completeField {s : State} (hphys : s.wc.known = true → s.wc.phys < 16) :
    ∃ t, completeField s = .next t := by
  cases h : completionOutcome s.wc.len (s.wc.buf.block 0 s.wc.len) s.wc.known s.cache.track with
  | some e => exact ⟨_, completeField_discards h⟩
  | none =>
    obtain ⟨-, -, hknown, -⟩ := completionOutcome_eq_none.1 h
    exact ⟨_, completeField_installs (hphys hknown) h⟩

/-- Field completion does not depend on how the last operation ended. -/
theorem completeField_answer (a : Answer) (s : State) : completeField { s with answer := a } = completeField s := by
  unfold completeField
  dsimp only
  split
  · rfl
  · unfold writeBlock
    dsimp only [memory_enc]
    split <;> rfl

theorem exec_wcExit_of_sampling {s : State} (h : s.wc.state = .sampling) :
    exec .wcExit s =
      andThen (completeField (restoreReader s.flushing)) fun t => .next { t with wc := { t.wc with state := .idle } } :=
  if_neg (not_not.2 h)

/-- Settles O38: RD.RESTORE, then WC.COMPLETE, which leaves the reader alone, then Idle. -/
theorem wcExitRestoresThenCompletes : Obligations.WcExitRestoresThenCompletes := by
  unfold Obligations.WcExitRestoresThenCompletes
  intro s hstate hphys
  obtain ⟨v, hv⟩ := exists_completeField (s := restoreReader s.flushing) hphys
  refine ⟨{ restoreReader s.flushing with answer := .ok }, v, rfl, ?_, ?_, ?_⟩
  · exact (completeField_answer .ok _).trans hv
  · rw [exec_wcExit_of_sampling hstate, hv, andThen_next]
  · obtain ⟨c, a, rfl, -⟩ := completeField_frame hv
    rfl

end Sys2Proof.Machine
end

section
/-! PROOFS. One write pulse: the skip of R135 takes the extra cell, every other cell reaches the buffer (R135 to R137). -/

namespace Sys2Proof.Machine

/-! ### A running count only counts -/

/-- The engine with its count running, at `n` (R135). -/
def Capture.withCount (wc : Capture) (n : Nat) : Capture := { wc with counting := true, cnt := n }

/-- The engine without a count. -/
def Capture.withoutCount (wc : Capture) : Capture := { wc with counting := false, cnt := 0 }

/-- Nothing is being counted, and no byte to come starts the count: it is synchronized already, or the count began at
WC.ENTER (R135, R136). -/
structure Capture.Uncounted (wc : Capture) (P : Params) : Prop where
  counting : wc.counting = false
  skipDone : wc.skipDone = false
  settled : wc.synced = true ∨ P.skipOrigin = .we

section
variable {wc : Capture} {P : Params}

theorem Capture.Uncounted.completeByte (h : wc.Uncounted P) (b : Byte) :
    (wc.completeByte P b).Uncounted P ∧
      ∀ n, (wc.withCount n).completeByte P b = (wc.completeByte P b).withCount n := by
  unfold Capture.completeByte Capture.withCount
  dsimp only
  split
  · split <;> exact ⟨{ h with }, fun _ => rfl⟩
  · have horigin : P.skipOrigin = .we := h.settled.resolve_left ‹_›
    split
    · rw [horigin]
      exact ⟨{ h with settled := .inl rfl }, fun _ => rfl⟩
    · exact ⟨h, fun _ => rfl⟩

theorem Capture.Uncounted.shiftBit (h : wc.Uncounted P) (b : Bool) :
    (wc.shiftBit P b).Uncounted P ∧ ∀ n, (wc.withCount n).shiftBit P b = (wc.shiftBit P b).withCount n := by
  by_cases hn : wc.nbits + 1 = 8
  · have hfull : { wc with shift := shiftIn wc.shift b, nbits := 0 }.Uncounted P := { h with }
    obtain ⟨hnext, hcommutes⟩ := hfull.completeByte (shiftIn wc.shift b)
    rw [Capture.shiftBit, if_pos hn]
    exact ⟨hnext, fun n => (if_pos hn).trans (hcommutes n)⟩
  · rw [Capture.shiftBit, if_neg hn]
    exact ⟨{ h with }, fun n => if_neg hn⟩

/-- Before the bit to discard a counting engine takes the bits as one without a count does (R134, R135). -/
theorem Capture.Uncounted.appendBits_withCount (h : wc.Uncounted P) {n : Nat} {bits : List Bool}
    (hroom : n + bits.length ≤ 24) :
    (wc.withCount n).appendBits P bits = (wc.appendBits P bits).withCount (n + bits.length) := by
  induction bits generalizing wc n with
  | nil => rfl
  | cons b bits ih =>
    rw [List.length_cons] at hroom
    obtain ⟨hnext, hcommutes⟩ := h.shiftBit b
    have hfree : wc.append P b = wc.shiftBit P b := Capture.NoSkip.append (.inl h.counting) P b
    have hcount : (wc.withCount n).nextCnt = n + 1 := if_pos ⟨rfl, h.skipDone⟩
    have hcounted : (wc.withCount n).append P b = (wc.shiftBit P b).withCount (n + 1) := by
      have hkept : n ≠ 24 := by omega
      rw [Capture.append_kept fun hlast => hkept hlast.2, hcount]
      exact hcommutes (n + 1)
    rw [Capture.appendBits_cons, Capture.appendBits_cons, hcounted, hfree, ih hnext (by omega), List.length_cons,
      Nat.add_assoc, Nat.add_comm 1]

end

/-! ### The bits of a field -/

theorem lineBits_append (l l' : List Byte) : lineBits (l ++ l') = lineBits l ++ lineBits l' := List.flatMap_append

theorem lineBits_length (l : List Byte) : (lineBits l).length = 8 * l.length := by
  induction l with
  | nil => rfl
  | cons b l ih =>
    rw [lineBits_cons, List.length_append, ih, List.length_map, List.length_range, List.length_cons]
    omega

theorem Memory.writeList_append (m : Memory) (a : Nat) (l l' : List Byte) :
    m.writeList a (l ++ l') = (m.writeList a l).writeList (a + l.length) l' := by
  induction l generalizing m a with
  | nil => rfl
  | cons b l ih =>
    rw [List.cons_append, Memory.writeList, ih, Memory.writeList, List.length_cons, Nat.add_assoc, Nat.add_comm 1]

/-- With the extra cell behind whole bytes the pulse is these bytes, the cell, and the bytes after it. -/
theorem pulseWithSkip_append {P : Params} {l : List Byte} (hl : 8 * l.length = skipPlace P) (l' : List Byte) (x : Bool) :
    pulseWithSkip P (l ++ l') x = lineBits l ++ x :: lineBits l' := by
  have hbits : (lineBits l).length = skipPlace P := (lineBits_length l).trans hl
  rw [pulseWithSkip, lineBits_append, List.take_left' hbits, List.drop_left' hbits]

/-! ### The engine from WC.ENTER on -/

/-- The assembler as WC.ENTER leaves it (R129). -/
structure Capture.Fresh (wc : Capture) (P : Params) : Prop where
  nbits : wc.nbits = 0
  synced : wc.synced = false
  len : wc.len = 0
  skipDone : wc.skipDone = false
  cnt : wc.cnt = 0
  counting : wc.counting = decide (P.skipOrigin = .we)

theorem Capture.entered_fresh (wc : Capture) (P : Params) (pos : Nat) (found : Option (Fin 16)) :
    (wc.entered P pos found).Fresh P := by
  obtain ⟨known, phys, log, heq⟩ := wc.entered_eq P pos found
  rw [heq]
  exact ⟨rfl, rfl, rfl, rfl, rfl, rfl⟩

/-- The engine that has received exactly `field`, its count running (R135 to R137). -/
def Capture.received (wc : Capture) (field : List Byte) (shift : Byte) (cnt : Nat) (skipDone : Bool) : Capture :=
  { wc with
    shift := shift, synced := true, buf := wc.buf.writeList 0 field, len := field.length, counting := true, cnt := cnt
    skipDone := skipDone }

section
variable {wc : Capture} {P : Params}

theorem Capture.Fresh.withoutCount_eq (h : wc.Fresh P) (hP : P.skipOrigin = .sync) : wc.withoutCount = wc := by
  obtain ⟨-, -, -, -, hcnt, hcounting⟩ := h
  rw [Capture.withoutCount, ← hcnt, show false = wc.counting by simp [hcounting, hP]]

theorem Capture.Fresh.withCount_eq (h : wc.Fresh P) (hP : P.skipOrigin = .we) : wc.withoutCount.withCount 0 = wc := by
  obtain ⟨-, -, -, -, hcnt, hcounting⟩ := h
  rw [Capture.withCount, Capture.withoutCount, ← hcnt, show true = wc.counting by simp [hcounting, hP]]

/-- The eight bits of 0xD5 synchronize the engine (R136). -/
theorem Capture.NoSkip.appendBits_sync (h : wc.NoSkip) (hn : wc.nbits = 0) (hsynced : wc.synced = false) :
    wc.appendBits P (lineBits [0xD5#8]) =
      { wc with
        shift := 0xD5#8, nbits := 0, synced := true, buf := wc.buf.write 0 0xD5#8, len := 1
        counting := if P.skipOrigin = .sync then true else wc.counting
        cnt := if P.skipOrigin = .sync then P.skipPreload.count else wc.cnt } :=
  (h.appendBits_byte hn P 0xD5#8).trans (Capture.completeByte_sync hsynced)

/-- The byte 0xD5 starts the buffer, and the count then stands as many cells before its 25th as the pulse has before
the extra one (R135, R136). -/
theorem Capture.Fresh.appendBits_first (h : wc.Fresh P) :
    wc.appendBits P (lineBits [0xD5#8]) = wc.received [0xD5#8] 0xD5#8 (32 - skipPlace P) false := by
  have hfree := Capture.NoSkip.appendBits_sync (P := P) (wc := wc.withoutCount) (.inl rfl) h.nbits h.synced
  cases hP : P.skipOrigin with
  | we =>
    have huncounted : wc.withoutCount.Uncounted P := ⟨rfl, h.skipDone, .inr hP⟩
    have hcounted := huncounted.appendBits_withCount (n := 0) (bits := lineBits [0xD5#8]) (by decide)
    rw [h.withCount_eq hP] at hcounted
    rw [hcounted, hfree]
    simp [Capture.received, Capture.withCount, Capture.withoutCount, Memory.writeList, lineBits_length, skipPlace, hP,
      h.nbits, h.skipDone]
  | sync =>
    rw [h.withoutCount_eq hP] at hfree
    rw [hfree]
    cases hpreload : P.skipPreload <;>
      simp [Capture.received, Memory.writeList, SkipPreload.count, skipPlace, hP, hpreload, h.nbits, h.skipDone]

/-- A received field followed by more bytes before the bit to discard. -/
theorem Capture.received_appendBits (hn : wc.nbits = 0) {field more : List Byte} {shift : Byte} {n : Nat}
    (hroom : field.length + more.length ≤ 350) (hcount : n + 8 * more.length ≤ 24) :
    ∃ shift', (wc.received field shift n false).appendBits P (lineBits more) =
      wc.received (field ++ more) shift' (n + 8 * more.length) false := by
  have huncounted : (wc.received field shift n false).withoutCount.Uncounted P := ⟨rfl, rfl, .inl rfl⟩
  have hcounted := huncounted.appendBits_withCount (bits := lineBits more) (by rwa [lineBits_length])
  obtain ⟨shift', hfree⟩ := Capture.NoSkip.appendBits_lineBits (P := P)
    (wc := (wc.received field shift n false).withoutCount) (.inl rfl) hn rfl hroom
  refine ⟨shift', hcounted.trans ?_⟩
  rw [hfree, lineBits_length]
  simp [Capture.received, Capture.withCount, Capture.withoutCount, Memory.writeList_append]

/-- Once the one bit has been discarded, every byte is received (R135, R137). -/
theorem Capture.received_appendBits_done (hn : wc.nbits = 0) {field more : List Byte} {shift : Byte} {n : Nat}
    (hroom : field.length + more.length ≤ 350) :
    ∃ shift', (wc.received field shift n true).appendBits P (lineBits more) =
      wc.received (field ++ more) shift' n true := by
  obtain ⟨shift', hfree⟩ := Capture.NoSkip.appendBits_lineBits (P := P) (wc := wc.received field shift n true)
    (.inr rfl) hn rfl hroom
  refine ⟨shift', hfree.trans ?_⟩
  simp [Capture.received, Memory.writeList_append]

/-- The extra cell stands behind three or four whole bytes (R135). -/
theorem skipPlace_bytes (P : Params) : ∃ m, (m = 3 ∨ m = 4) ∧ skipPlace P = 8 * m := by
  unfold skipPlace
  split
  · exact ⟨4, .inr rfl, rfl⟩
  · exact ⟨3, .inl rfl, rfl⟩

/-- A field that ends before the extra cell would come is received with the skip still pending (R135). -/
theorem Capture.Fresh.appendBits_field (h : wc.Fresh P) {field : List Byte} (hfirst : field[0]? = some 0xD5#8)
    (hshort : 8 * field.length ≤ skipPlace P) :
    ∃ shift, wc.appendBits P (lineBits field) =
      wc.received field shift (24 + 8 * field.length - skipPlace P) false := by
  cases field with
  | nil => cases hfirst
  | cons b rest =>
    obtain rfl : b = 0xD5#8 := Option.some_inj.1 hfirst
    obtain ⟨m, hm, hplace⟩ := skipPlace_bytes P
    rw [List.length_cons] at hshort ⊢
    obtain ⟨shift, hrest⟩ := Capture.received_appendBits (P := P) (shift := 0xD5#8) (n := 32 - skipPlace P) h.nbits
      (field := [0xD5#8]) (more := rest) (by rw [List.length_singleton]; omega) (by omega)
    refine ⟨shift, ?_⟩
    rw [← List.singleton_append, lineBits_append, Capture.appendBits_append, h.appendBits_first, hrest]
    congr 1
    omega

/-- A pulse with the extra cell at the skip leaves the field without it (R135). -/
theorem Capture.Fresh.appendBits_pulse (h : wc.Fresh P) {field : List Byte} (hfirst : field[0]? = some 0xD5#8)
    (hroom : field.length ≤ 350) (hlong : skipPlace P ≤ 8 * field.length) (x : Bool) :
    ∃ shift, wc.appendBits P (pulseWithSkip P field x) = wc.received field shift 25 true := by
  obtain ⟨m, hm, hplace⟩ := skipPlace_bytes P
  have hbefore : 8 * (field.take m).length = skipPlace P := by
    rw [List.length_take, Nat.min_eq_left (by omega), hplace]
  have hhead : (field.take m)[0]? = some 0xD5#8 := by rwa [List.getElem?_take_of_lt (by omega)]
  obtain ⟨shift, hreceived⟩ := h.appendBits_field hhead hbefore.le
  rw [hbefore, Nat.add_sub_cancel] at hreceived
  have hskip : (wc.received (field.take m) shift 24 false).append P x = wc.received (field.take m) shift 25 true :=
    Capture.append_discarded ⟨rfl, rfl⟩ rfl P x
  obtain ⟨shift', hrest⟩ := Capture.received_appendBits_done (P := P) (shift := shift) (n := 25) h.nbits
    (field := field.take m) (more := field.drop m) (by rwa [← List.length_append, List.take_append_drop])
  have hpulse := pulseWithSkip_append hbefore (field.drop m) x
  rw [List.take_append_drop] at hpulse hrest
  exact ⟨shift', by rw [hpulse, Capture.appendBits_append, hreceived, Capture.appendBits_cons, hskip, hrest]⟩

end

/-- A received field stands at the start of CAP. -/
theorem Capture.received_block {wc : Capture} (hwf : wc.buf.wf 350 = true) {field : List Byte}
    (hroom : field.length ≤ 350) (shift : Byte) (cnt : Nat) (skipDone : Bool) :
    (wc.received field shift cnt skipDone).buf.block 0 field.length = field :=
  Memory.block_writeList hwf field (by omega)

/-- A pulse from Idle: WC.ENTER, then the bits one by one (R84, R129). -/
theorem runOps_pulse {s : State} (hidle : s.wc.state = .idle) (hsel : s.pin.selN = false) (bits : List Bool) :
    ∃ (t : State) (wc : Capture), runOps (.wcEnter :: wcBits bits) s = .next t ∧ t.wc = wc.appendBits s.params bits ∧
      wc.Fresh s.params ∧ wc.state = .sampling ∧ wc.buf = s.wc.buf := by
  obtain ⟨t, ht, hwc⟩ := runOps_wcBits (s :=
    { s with
        pin := { s.pin with weN := false, rd := false }
        rd := { s.rd with run := false }
        wc := s.wc.entered s.params s.rd.byte (scanSector s.rd s.rd.byte)
        answer := .ok }) rfl rfl hsel bits
  refine ⟨t, _, ?_, hwc, s.wc.entered_fresh _ _ _, rfl, s.wc.entered_buf _ _ _⟩
  rw [runOps, exec_wcEnter_of_idle hidle, andThen_next, ht]

/-- Settles O35: the pulse as a fold of WC.APPEND over the engine WC.ENTER left. -/
theorem captureRecoversTheWrittenField : Obligations.CaptureRecoversTheWrittenField := by
  unfold Obligations.CaptureRecoversTheWrittenField
  intro s field hwf hidle hsel hfirst hroom
  refine ⟨fun x hlong => ?_, fun hshort => ?_⟩
  · obtain ⟨t, wc, ht, hwc, hfresh, hstate, hbuf⟩ := runOps_pulse hidle hsel (pulseWithSkip s.params field x)
    obtain ⟨shift, heq⟩ := hfresh.appendBits_pulse hfirst hroom hlong x
    rw [heq] at hwc
    refine ⟨t, ht, ?_⟩
    rw [hwc]
    exact ⟨hstate, rfl, rfl, hfresh.nbits, rfl, Capture.received_block (hbuf ▸ hwf) hroom _ _ _⟩
  · obtain ⟨t, wc, ht, hwc, hfresh, hstate, hbuf⟩ := runOps_pulse hidle hsel (lineBits field)
    obtain ⟨shift, heq⟩ := hfresh.appendBits_field hfirst hshort
    rw [heq] at hwc
    refine ⟨t, ht, ?_⟩
    rw [hwc]
    exact ⟨hstate, rfl, rfl, hfresh.nbits, rfl, Capture.received_block (hbuf ▸ hwf) hroom _ _ _⟩

end Sys2Proof.Machine
end

section
/-! PROOFS. Where the address prologue stands in a list of bytes, and in one record of a track (R65, R143). -/

namespace Sys2Proof.Machine

/-! ### The address prologue in a list of bytes -/

/-- The bytes D5 AA 96 stand at index `k` of `l`. -/
def prologueIn (l : List Byte) (k : Nat) : Prop := (l.drop k).take 3 = addressPrologue

theorem prologueIn_append_right (l l' : List Byte) (k : Nat) :
    prologueIn (l ++ l') (l.length + k) ↔ prologueIn l' k := by
  rw [prologueIn, prologueIn, ← List.drop_drop, List.drop_left]

theorem prologueIn_zero {l : List Byte} : prologueIn l 0 ↔ ∃ l', l = addressPrologue ++ l' := by
  constructor
  · intro h
    exact ⟨l.drop 3, by rw [← h, List.drop_zero, List.take_append_drop]⟩
  · rintro ⟨l', rfl⟩
    rfl

theorem not_prologueIn_nil (k : Nat) : ¬prologueIn [] k := by simp [prologueIn, addressPrologue]

/-- No prologue begins where no 0xD5 stands. -/
theorem prologueIn_append_of_notMem {l l' : List Byte} (hl : 0xD5#8 ∉ l) {k : Nat} (h : prologueIn (l ++ l') k) :
    l.length ≤ k ∧ prologueIn l' (k - l.length) := by
  induction l generalizing k with
  | nil => exact ⟨Nat.zero_le k, h⟩
  | cons b l ih =>
    cases k with
    | zero =>
      obtain ⟨rest, heq⟩ := prologueIn_zero.1 h
      obtain rfl : b = 0xD5#8 := List.head_eq_of_cons_eq heq
      exact absurd List.mem_cons_self hl
    | succ k =>
      obtain ⟨hle, hin⟩ := ih (fun hb => hl (List.mem_cons_of_mem b hb)) h
      exact ⟨Nat.succ_le_succ hle, by rwa [List.length_cons, Nat.add_sub_add_right]⟩

/-- Nor does one begin in bytes that hold none and are followed by a byte that cannot continue one. -/
theorem prologueIn_append_of_not_holds {l l' : List Byte} (hl : ¬holdsAddressPrologue l)
    (hAA : l'.head? ≠ some 0xAA#8) (h96 : l'.head? ≠ some 0x96#8) {k : Nat} (h : prologueIn (l ++ l') k) :
    l.length ≤ k ∧ prologueIn l' (k - l.length) := by
  induction l generalizing k with
  | nil => exact ⟨Nat.zero_le k, h⟩
  | cons b l ih =>
    cases k with
    | zero =>
      obtain ⟨rest, heq⟩ := prologueIn_zero.1 h
      match l with
      | [] => exact absurd (congrArg (fun m => m.tail.head?) heq) hAA
      | [c] => exact absurd (congrArg (fun m => m.tail.tail.head?) heq) h96
      | c :: d :: m => exact absurd ⟨0, h⟩ hl
    | succ k =>
      obtain ⟨hle, hin⟩ := ih (fun ⟨j, hj⟩ => hl ⟨j + 1, hj⟩) h
      exact ⟨Nat.succ_le_succ hle, by rwa [List.length_cons, Nat.add_sub_add_right]⟩

/-! ### The pieces of a record -/

theorem syncBytes_notMem (n : Nat) : 0xD5#8 ∉ syncBytes n := fun h =>
  absurd (List.eq_of_mem_replicate h) (by decide)

/-- Both bytes of a nibblized pair have bit 5 set, which 0xD5 has not (R88). -/
theorem notMem_n44Bytes (v : Byte) : 0xD5#8 ∉ n44Bytes v := by
  have hbit (x : Byte) : 0xD5#8 ≠ 0xAA#8 ||| x := fun h => by
    have h5 := congrArg (fun b => b.getLsbD 5) h
    simp at h5
  simp [n44Bytes, n44Enc, hbit]

theorem nibOf_mem (P : Params) (c : Code) : nibOf P c ∈ P.nib.toList := by
  rw [nibOf, Vector.mem_toList_iff]
  exact Vector.getElem_mem _

/-- Every byte of a payload is an entry of the code table (R72, R97). -/
theorem mem_nib_of_mem_xorChain {P : Params} {ox : Code} {xs : List Code} {b : Byte} (h : b ∈ xorChain P ox xs) :
    b ∈ P.nib.toList := by
  induction xs generalizing ox with
  | nil =>
    obtain rfl := List.mem_singleton.1 h
    exact nibOf_mem P ox
  | cons x xs ih =>
    obtain rfl | h := List.mem_cons.1 h
    · exact nibOf_mem P _
    · exact ih h

/-- The 13 bytes of the address field after its first, and the gap: nowhere 0xD5 (R99). -/
def addressRest (vol trk sec : Byte) : List Byte := (addrEnc vol trk sec).tail ++ syncBytes 5

theorem addressRest_notMem (vol trk sec : Byte) : 0xD5#8 ∉ addressRest vol trk sec := by
  have htail : (addrEnc vol trk sec).tail = [0xAA#8, 0x96#8] ++ n44Bytes vol ++ n44Bytes trk ++ n44Bytes sec ++
    n44Bytes (vol ^^^ trk ^^^ sec) ++ addressEpilogue := rfl
  rw [addressRest, htail]
  simp [notMem_n44Bytes, syncBytes_notMem, addressEpilogue]

/-! ### One record -/

/-- The 53 bytes of a record before its data field (R65). -/
def recordHead (P : Params) (T : Nat) (p : Fin 16) : List Byte :=
  syncBytes 22 ++ P.selfSync.toList ++
    (addrEnc Config.volume (BitVec.ofNat 8 T) (BitVec.ofNat 8 p.val) ++ syncBytes 5)

/-- A record whose data field is `field` (R65). -/
def recordWith (P : Params) (T : Nat) (p : Fin 16) (field : List Byte) : List Byte :=
  recordHead P T p ++ (field ++ syncBytes 14)

/-- The data field SEC.ENC writes: prologue, payload, epilogue (R70, R71). -/
def encodedField (P : Params) (raw : List Byte) : List Byte := dataPrologue ++ (nicEnc P raw ++ P.dataEpilogue.toList)

theorem secEnc_eq_recordWith (P : Params) (T : Nat) (p : Fin 16) (raw : List Byte) :
    secEnc P T p raw = recordWith P T p (encodedField P raw) := by
  simp only [secEnc, recordWith, recordHead, encodedField, List.append_assoc]

theorem beforeAddress_length (P : Params) : (syncBytes 22 ++ P.selfSync.toList).length = 34 := by simp [syncBytes]

theorem recordHead_length (P : Params) (T : Nat) (p : Fin 16) : (recordHead P T p).length = 53 := by
  rw [recordHead, List.length_append, beforeAddress_length]
  rfl

theorem encodedField_length (P : Params) {raw : List Byte} (hraw : raw.length = 256) :
    (encodedField P raw).length = 349 := by
  simp [encodedField, dataPrologue, nicEnc_length P hraw]

/-- In a data field no address prologue begins: it holds no 0xD5, or it is an encoded one (R143). -/
def QuietField (P : Params) (field : List Byte) : Prop := 0xD5#8 ∉ field ∨ ∃ raw, field = encodedField P raw

theorem not_prologueIn_syncBytes (n k : Nat) : ¬prologueIn (syncBytes n) k := fun h => by
  rw [← List.append_nil (syncBytes n)] at h
  exact not_prologueIn_nil _ (prologueIn_append_of_notMem (syncBytes_notMem n) h).2

/-- Behind the data prologue D5 AA AD stand codes and an epilogue without an address prologue (R143). -/
theorem not_prologueIn_encodedField {P : Params} (hnib : 0xD5#8 ∉ P.nib.toList)
    (hepilogue : ¬holdsAddressPrologue P.dataEpilogue.toList) (raw : List Byte) (k : Nat) :
    ¬prologueIn (encodedField P raw ++ syncBytes 14) k := by
  have hprologue : 0xD5#8 ∉ [0xAA#8, 0xAD#8] := by decide
  have hpayload : 0xD5#8 ∉ nicEnc P raw := fun h => hnib (mem_nib_of_mem_xorChain h)
  rw [encodedField, List.append_assoc, List.append_assoc]
  intro h
  cases k with
  | zero =>
    obtain ⟨rest, heq⟩ := prologueIn_zero.1 h
    have hthird : some 0xAD#8 = some 0x96#8 := congrArg (fun l => l.tail.tail.head?) heq
    exact absurd hthird (by decide)
  | succ k =>
    obtain ⟨-, h⟩ := prologueIn_append_of_notMem hprologue h
    obtain ⟨-, h⟩ := prologueIn_append_of_notMem hpayload h
    obtain ⟨-, h⟩ := prologueIn_append_of_not_holds hepilogue (by decide) (by decide) h
    exact not_prologueIn_syncBytes _ _ h

theorem not_prologueIn_field {P : Params} (hnib : 0xD5#8 ∉ P.nib.toList)
    (hepilogue : ¬holdsAddressPrologue P.dataEpilogue.toList) {field : List Byte} (hfield : QuietField P field)
    (k : Nat) : ¬prologueIn (field ++ syncBytes 14) k := by
  obtain hquiet | ⟨raw, rfl⟩ := hfield
  · exact fun h => not_prologueIn_syncBytes _ _ (prologueIn_append_of_notMem hquiet h).2
  · exact not_prologueIn_encodedField hnib hepilogue raw k

/-- The address prologue of a record is the only one in it, at offset 34 (R143). -/
theorem prologueIn_recordWith_iff {P : Params} (hnib : 0xD5#8 ∉ P.nib.toList)
    (hsync : ¬holdsAddressPrologue P.selfSync.toList) (hepilogue : ¬holdsAddressPrologue P.dataEpilogue.toList)
    (T : Nat) (p : Fin 16) {field : List Byte} (hfield : QuietField P field) (k : Nat) :
    prologueIn (recordWith P T p field) k ↔ k = 34 := by
  have hlength := beforeAddress_length P
  rw [List.length_append] at hlength
  rw [recordWith, recordHead, List.append_assoc]
  constructor
  · intro h
    rw [List.append_assoc] at h
    obtain ⟨hlead, h⟩ := prologueIn_append_of_notMem (syncBytes_notMem 22) h
    have hnext (l : List Byte) (vol trk sec : Byte) : (addrEnc vol trk sec ++ l).head? = some 0xD5#8 := rfl
    rw [List.append_assoc (addrEnc _ _ _)] at h
    obtain ⟨hself, h⟩ := prologueIn_append_of_not_holds hsync (by rw [hnext]; decide) (by rw [hnext]; decide) h
    cases hj : k - (syncBytes 22).length - P.selfSync.toList.length with
    | zero => omega
    | succ j =>
      rw [hj] at h
      have hrest : prologueIn
          (addressRest Config.volume (BitVec.ofNat 8 T) (BitVec.ofNat 8 p.val) ++ (field ++ syncBytes 14)) j := h
      exact absurd (prologueIn_append_of_notMem (addressRest_notMem _ _ _) hrest).2
        (not_prologueIn_field hnib hepilogue hfield _)
  · rintro rfl
    have h := prologueIn_append_right (syncBytes 22 ++ P.selfSync.toList)
      (addrEnc Config.volume (BitVec.ofNat 8 T) (BitVec.ofNat 8 p.val) ++ syncBytes 5 ++ (field ++ syncBytes 14)) 0
    rw [beforeAddress_length] at h
    exact h.2 rfl

end Sys2Proof.Machine
end

section
/-! PROOFS. Where the address prologue stands on an encoded track, and the slot the scan finds there (R143). -/

namespace Sys2Proof.Machine

/-! ### The records of a snapshot -/

theorem Memory.block_add (m : Memory) (a n n' : Nat) : m.block a (n + n') = m.block a n ++ m.block (a + n) n' := by
  simp [Memory.block, List.range_add, Function.comp_def, Nat.add_assoc]

theorem Memory.block_eq_of_getD {m : Memory} {a : Nat} {l : List Byte}
    (h : ∀ k, k < l.length → m.read (a + k) = l.getD k 0x00#8) : m.block a l.length = l := by
  refine List.ext_getElem (by simp) fun k _ hk => ?_
  simp [Memory.block, h k hk, hk]

/-- Byte `k` of record `p` of an encoded track (R101). -/
theorem trkEnc_getD (P : Params) (img : Memory) (T : Nat) (p : Fin 16) {k : Nat} (hk : k < 416) :
    (trkEnc P img T).getD (p.val * 416 + k) 0x00#8 =
      (recordWith P T p (encodedField P (img.block (sectorAddr T (p2l P p).val) 256))).getD k 0x00#8 := by
  have hrecord := take_drop_flatMap_const
    (f := fun q => secEnc P T q (img.block (sectorAddr T (p2l P q).val) 256))
    (fun q => secEnc_length P T q (Memory.block_length _ _ _)) (show (List.finRange 16)[p.val]? = some p by simp)
  rw [← secEnc_eq_recordWith, ← hrecord, List.getD_eq_getElem?_getD, List.getD_eq_getElem?_getD,
    List.getElem?_take_of_lt hk, List.getElem?_drop]
  rfl

section
variable {P : Params} {T : Nat} {p : Fin 16} {field : List Byte} {k : Nat}

theorem recordWith_getD_head (hk : k < 53) :
    (recordWith P T p field).getD k 0x00#8 = (recordHead P T p).getD k 0x00#8 :=
  List.getD_append _ _ _ _ (by rwa [recordHead_length])

theorem recordWith_getD_field (hk : k < field.length) :
    (recordWith P T p field).getD (53 + k) 0x00#8 = field.getD k 0x00#8 := by
  rw [recordWith, List.getD_append_right _ _ _ _ (by rw [recordHead_length]; omega), recordHead_length,
    Nat.add_sub_cancel_left, List.getD_append _ _ _ _ hk]

theorem recordWith_getD_tail (hfield : field.length = 349) (hk : k < 14) :
    (recordWith P T p field).getD (402 + k) 0x00#8 = (syncBytes 14).getD k 0x00#8 := by
  have hlength : (recordHead P T p ++ field).length = 402 := by rw [List.length_append, recordHead_length, hfield]
  rw [recordWith, ← List.append_assoc, List.getD_append_right _ _ _ _ (by omega), hlength, Nat.add_sub_cancel_left]

end

/-- Each record of such a snapshot has the encoded head and tail around a quiet data field (R143). -/
theorem exists_block_eq_recordWith {P : Params} {buf img : Memory} {T : Nat}
    (h : trackWithOtherFields buf (trkEnc P img T)) (p : Fin 16) :
    ∃ field, field.length = 349 ∧ QuietField P field ∧ buf.block (p.val * 416) 416 = recordWith P T p field := by
  obtain ⟨houtside, hinside⟩ := h p.val p.isLt
  have hencoded := encodedField_length P (Memory.block_length img (sectorAddr T (p2l P p).val) 256)
  refine ⟨buf.block (p.val * 416 + 53) 349, Memory.block_length _ _ _, ?_, ?_⟩
  · obtain hsame | hother := hinside
    · refine .inr ⟨img.block (sectorAddr T (p2l P p).val) 256, ?_⟩
      rw [← hencoded]
      refine Memory.block_eq_of_getD fun k hk => ?_
      rw [Nat.add_assoc, hsame (53 + k) (by omega) (by omega), trkEnc_getD P img T p (by omega),
        recordWith_getD_field hk]
    · refine .inl fun hmem => ?_
      obtain ⟨k, hk, heq⟩ := List.mem_map.1 hmem
      have hlt := List.mem_range.1 hk
      exact hother (53 + k) (by omega) (by omega) (by rw [← Nat.add_assoc, heq])
  · have hhead : buf.block (p.val * 416) 53 = recordHead P T p := by
      rw [← recordHead_length P T p]
      refine Memory.block_eq_of_getD fun k hk => ?_
      rw [recordHead_length] at hk
      rw [houtside k (by omega) (.inl hk), trkEnc_getD P img T p (by omega), recordWith_getD_head hk]
    have htail : buf.block (p.val * 416 + 402) 14 = syncBytes 14 :=
      Memory.block_eq_of_getD (l := syncBytes 14) fun k hk => by
        have hk : k < 14 := hk
        rw [Nat.add_assoc, houtside (402 + k) (by omega) (.inr (by omega)), trkEnc_getD P img T p (by omega),
          recordWith_getD_tail hencoded hk]
    rw [show 416 = 53 + (349 + 14) from rfl, Memory.block_add, Memory.block_add, hhead, Nat.add_assoc, htail]
    rfl

/-- The first of `n` bytes of a block from index `k` on. -/
theorem Memory.block_drop_take (m : Memory) (a : Nat) {n k j : Nat} (hk : k + j ≤ n) :
    ((m.block a n).drop k).take j = m.block (a + k) j := by
  obtain ⟨r, rfl⟩ := Nat.exists_eq_add_of_le hk
  have hbefore : (m.block a k).length = k := Memory.block_length m a k
  have htaken : (m.block (a + k) j).length = j := Memory.block_length m (a + k) j
  rw [Memory.block_add, Memory.block_add, List.append_assoc, List.drop_left' hbefore, List.take_left' htaken]

/-- Away from the wrap the prologue stands in the snapshot where it stands in the block (R130). -/
theorem prologueStandsAt_iff_prologueIn {buf : Memory} {a n k : Nat} (hk : k + 3 ≤ n) (hwrap : a + k + 2 < 6656) :
    prologueStandsAt buf (a + k) ↔ prologueIn (buf.block a n) k := by
  have hblock : buf.block (a + k) 3 = [buf.read (a + k), buf.read (a + k + 1), buf.read (a + k + 2)] := rfl
  rw [prologueIn, Memory.block_drop_take buf a hk, hblock, prologueStandsAt, Nat.mod_eq_of_lt (by omega),
    Nat.mod_eq_of_lt hwrap]
  simp [addressPrologue]

/-- A record ends in sync bytes, so no prologue begins across its end (R65). -/
theorem not_prologueStandsAt_recordEnd {P : Params} {buf : Memory} {T a : Nat} {p : Fin 16} {field : List Byte}
    (hfield : field.length = 349) (hblock : buf.block a 416 = recordWith P T p field) {k : Nat} (hk : 402 ≤ k)
    (hend : k < 416) : ¬prologueStandsAt buf (a + k) := by
  rintro ⟨hfirst, -⟩
  obtain ⟨j, rfl⟩ := Nat.exists_eq_add_of_le hk
  have hread := Memory.block_getD buf a 416 (402 + j) hend
  rw [hblock, recordWith_getD_tail hfield (by omega), hfirst] at hread
  have hj : j < (syncBytes 14).length := Nat.lt_of_add_lt_add_left hend
  rw [List.getD_eq_getElem _ _ hj] at hread
  exact syncBytes_notMem 14 (hread ▸ List.getElem_mem hj)

section
variable {P : Params} {buf img : Memory} {T : Nat}

/-- The prologue stands at the offsets `p * 416 + 34` and nowhere else (R143). -/
theorem prologueStandsAt_iff_of_otherFields (hnib : 0xD5#8 ∉ P.nib.toList)
    (hsync : ¬holdsAddressPrologue P.selfSync.toList) (hepilogue : ¬holdsAddressPrologue P.dataEpilogue.toList)
    (h : trackWithOtherFields buf (trkEnc P img T)) {q : Nat} (hq : q < 6656) :
    prologueStandsAt buf q ↔ q % 416 = 34 := by
  obtain ⟨field, hlength, hquiet, hblock⟩ := exists_block_eq_recordWith h ⟨q / 416, by omega⟩
  have hsplit : q / 416 * 416 + q % 416 = q := Nat.div_add_mod' q 416
  by_cases hk : q % 416 + 3 ≤ 416
  · have hin := prologueStandsAt_iff_prologueIn (buf := buf) (a := q / 416 * 416) hk (by omega)
    rwa [hblock, prologueIn_recordWith_iff hnib hsync hepilogue _ _ hquiet, hsplit] at hin
  · have hnot := not_prologueStandsAt_recordEnd hlength hblock (k := q % 416) (by omega) (by omega)
    rw [hsplit] at hnot
    exact iff_of_false hnot (by omega)

/-- The sector value in the address field of slot `p` is `p` (R99, R131). -/
theorem locatedSector_of_otherFields (h : trackWithOtherFields buf (trkEnc P img T)) (p : Fin 16) :
    n44Dec (buf.read (p.val * 416 + 41)) (buf.read (p.val * 416 + 42)) = BitVec.ofNat 8 p.val := by
  obtain ⟨field, -, -, hblock⟩ := exists_block_eq_recordWith h p
  have hbyte (k : Nat) (hk : k < 19) : buf.read (p.val * 416 + (34 + k)) =
      (addrEnc Config.volume (BitVec.ofNat 8 T) (BitVec.ofNat 8 p.val) ++ syncBytes 5).getD k 0x00#8 := by
    rw [← Memory.block_getD _ _ 416 _ (by omega), hblock, recordWith_getD_head (by omega), recordHead,
      List.getD_append_right _ _ _ _ (by rw [beforeAddress_length]; omega), beforeAddress_length,
      Nat.add_sub_cancel_left]
  rw [hbyte 7 (by decide), hbyte 8 (by decide)]
  exact n44Dec_n44Enc _

end

/-! ### The scan -/

/-- Settles O30: the prologues of the snapshot, and WC.ENTER's scan on them. -/
theorem scanFindsTheNearestSlot : Obligations.ScanFindsTheNearestSlot := by
  unfold Obligations.ScanFindsTheNearestSlot
  intro s img T hnib hsync hepilogue _ h
  have hstands {q : Nat} (hq : q < 6656) := prologueStandsAt_iff_of_otherFields hnib hsync hepilogue h hq
  refine ⟨fun q hq => hstands hq, fun hfilled hidle hbyte => ⟨_, exec_wcEnter_of_idle hidle, ?_⟩⟩
  obtain ⟨-, hscan⟩ := wcEnterLocatesTheSector s _ hidle hbyte (exec_wcEnter_of_idle hidle)
  obtain ⟨-, hfirst⟩ := hscan hfilled
  obtain ⟨k, hk⟩ : ∃ k, k = (s.rd.byte + 6656 - 34) % 416 := ⟨_, rfl⟩
  obtain ⟨p, hp⟩ : ∃ p : Fin 16, p.val = (s.rd.byte + 6656 - 34) % 6656 / 416 := ⟨⟨_, by omega⟩, rfl⟩
  have hnearest : prologueStandsAt s.rd.buf ((s.rd.byte + 6656 - k) % 6656) := (hstands (by omega)).2 (by omega)
  have hnone (j : Nat) (hj : j < k) : ¬prologueStandsAt s.rd.buf ((s.rd.byte + 6656 - j) % 6656) := fun hq => by
    have hoffset := (hstands (by omega)).1 hq
    omega
  have hvalue := locatedSector_of_otherFields h p
  have hsector : (BitVec.ofNat 8 p.val).toNat = p.val := by rw [BitVec.toNat_ofNat]; omega
  rw [show p.val * 416 + 41 = (s.rd.byte + 6656 - k + 7) % 6656 by omega,
    show p.val * 416 + 42 = (s.rd.byte + 6656 - k + 8) % 6656 by omega] at hvalue
  obtain ⟨-, hslot⟩ := hfirst k (by omega) hnearest hnone _ hvalue.symm
  obtain ⟨hknown, hphys, -⟩ := hslot (by omega)
  exact ⟨hknown, hphys.trans (hsector.trans hp)⟩

end Sys2Proof.Machine
end

section
/-! PROOFS. The track cache: how TC.REBUILD, TC.RECONCILE and TC.SELECT end outside a capture, on a loaded image
(R144 to R147). -/

namespace Sys2Proof.Machine

/-- The guard of R55 while no capture is armed. -/
theorem guarded_of_idle {wc : Capture} (h : wc.state = .idle) (o : Out) :
    (if wc.armed then .refused .duringCapture else o) = o := if_neg (not_armed_iff.2 h)

/-! ### TC.REBUILD -/

/-- The state TC.REBUILD leaves (R146). -/
def State.rebuilt (s : State) (T : Nat) : State :=
  { s with
    cache := { s.cache with data := Memory.ofBytes 0 (trkEnc s.params s.img T), track := some T }
    answer := .ok }

theorem rebuild_of_loaded {s : State} {T : Nat} (hloaded : s.imgLoaded = true) (hT : T ≤ 34) :
    rebuild T s = .next (s.rebuilt T) := by
  rw [rebuild, if_neg (by simp [hloaded]), if_pos (sectorAddr_track_le hT)]
  rfl

theorem exec_tcRebuild_of_idle {s : State} {T : Nat} (hidle : s.wc.state = .idle) :
    exec (.tcRebuild T) s = rebuild T s := guarded_of_idle hidle _

/-- A block of the memory of a list of bytes is that part of the list. -/
theorem Memory.block_ofBytes_within {bs : List Byte} {a n : Nat} (h : a + n ≤ bs.length) :
    (Memory.ofBytes 0 bs).block a n = (bs.drop a).take n := by
  have hpart := Memory.block_drop_take (Memory.ofBytes 0 bs) 0 h
  rw [Memory.block_ofBytes, Nat.zero_add] at hpart
  exact hpart.symm

/-- Slot `p` of a rebuilt cache is SEC.ENC of the sector it holds (R101, R146). -/
theorem block_ofBytes_trkEnc (P : Params) (img : Memory) (T : Nat) (p : BitVec 4) :
    (Memory.ofBytes 0 (trkEnc P img T)).block (p.toNat * 416) 416 =
      secEnc P T (slotOf p) (img.block (sectorAddr T (p2l P (slotOf p)).val) 256) := by
  have hp := p.isLt
  rw [Memory.block_ofBytes_within (by rw [trkEnc_length]; omega), trkEnc_record]

/-- Settles O40: the cache TC.REBUILD makes, slot by slot, and nothing behind its last slot. -/
theorem tcRebuildEncodesTheTrack : Obligations.TcRebuildEncodesTheTrack := by
  unfold Obligations.TcRebuildEncodesTheTrack
  intro s T hidle hloaded hT
  refine ⟨Memory.ofBytes 0 (trkEnc s.params s.img T), ?_, fun p l hl => ?_, fun a ha => ?_⟩
  · exact (exec_tcRebuild_of_idle hidle).trans (rebuild_of_loaded hloaded hT)
  · have hslot : p2l s.params (slotOf p) = l := p2l_getElem?_eq_some_iff.1 hl
    refine answer_eq_next_iff.2 (congrArg Answer.bytes ?_)
    rw [block_ofBytes_trkEnc, hslot, sectorAddr]
  · exact Memory.read_above (trkEnc_wf s.params s.img T) ha

/-! ### TC.RECONCILE, slot by slot -/

theorem reconcileSlot_of_ok {P : Params} {data : Memory} {p : Fin 16} {raw : List Byte}
    (h : fieldDec P (data.block (fieldAddr p.val) 346) = .ok raw) (t : Nat) (img : Memory) :
    reconcileSlot P data t img p = img.writeList (sectorAddr t (p2l P p).val) raw := by
  rw [reconcileSlot, h]

theorem reconcileSlot_of_error {P : Params} {data : Memory} {p : Fin 16} {e : ErrorOutcome}
    (h : fieldDec P (data.block (fieldAddr p.val) 346) = .error e) (t : Nat) (img : Memory) :
    reconcileSlot P data t img p = img := by
  rw [reconcileSlot, h]

/-- A sector of a track 0..34 lies inside IMG (R41). -/
theorem sectorAddr_fin_add_le {t : Nat} (ht : t ≤ 34) (l : Fin 16) : sectorAddr t l.val + 256 ≤ 143360 := by
  rw [sectorAddr]
  omega

/-- The sectors of a track lie among its 4096 bytes (R41). -/
theorem track_of_sector {t a : Nat} (l : Fin 16) (ha : sectorAddr t l.val ≤ a ∧ a < sectorAddr t l.val + 256) :
    t * 4096 ≤ a ∧ a < t * 4096 + 4096 := by
  rw [sectorAddr] at ha
  rw [Nat.mul_comm]
  omega

section
variable {P : Params} {data img : Memory} {t : Nat}

/-- A slot that decodes stands in the image as the sector it decodes to (R145). -/
theorem reconcileSlot_block_self (ht : t ≤ 34) (himg : img.wf 143360 = true) {p : Fin 16} {raw : List Byte}
    (h : fieldDec P (data.block (fieldAddr p.val) 346) = .ok raw) :
    (reconcileSlot P data t img p).block (sectorAddr t (p2l P p).val) 256 = raw := by
  have hlen := fieldDec_length h
  have hback := Memory.block_writeList himg raw (a := sectorAddr t (p2l P p).val)
    (by rw [hlen]; exact sectorAddr_fin_add_le ht _)
  rwa [hlen, ← reconcileSlot_of_ok h] at hback

/-- A slot writes no byte outside its own sector (R145). -/
theorem reconcileSlot_read_outside (ht : t ≤ 34) (himg : img.wf 143360 = true) {p : Fin 16} {a : Nat}
    (ha : ¬(sectorAddr t (p2l P p).val ≤ a ∧ a < sectorAddr t (p2l P p).val + 256)) :
    (reconcileSlot P data t img p).read a = img.read a := by
  cases h : fieldDec P (data.block (fieldAddr p.val) 346) with
  | error e => rw [reconcileSlot_of_error h]
  | ok raw =>
    have hlen := fieldDec_length h
    rw [reconcileSlot_of_ok h,
      Memory.read_writeList himg raw (by rw [hlen]; exact sectorAddr_fin_add_le ht _), hlen, if_neg ha]

/-! ### TC.RECONCILE, all slots -/

/-- A run of slots writes no byte outside the sectors of these slots. -/
theorem foldl_reconcileSlot_read (ht : t ≤ 34) (himg : img.wf 143360 = true) {ps : List (Fin 16)} {a : Nat}
    (ha : ∀ p ∈ ps, ¬(sectorAddr t (p2l P p).val ≤ a ∧ a < sectorAddr t (p2l P p).val + 256)) :
    (ps.foldl (reconcileSlot P data t) img).read a = img.read a := by
  induction ps generalizing img with
  | nil => rfl
  | cons p ps ih =>
    rw [List.foldl_cons, ih (reconcileSlot_wf P data ht himg p) fun q hq => ha q (List.mem_cons_of_mem p hq),
      reconcileSlot_read_outside ht himg (ha p List.mem_cons_self)]

theorem foldl_reconcileSlot_wf (ht : t ≤ 34) (himg : img.wf 143360 = true) (ps : List (Fin 16)) :
    (ps.foldl (reconcileSlot P data t) img).wf 143360 = true :=
  List.foldlRecOn (motive := fun m => Memory.wf 143360 m = true) _ _ himg
    fun _ hm p _ => reconcileSlot_wf P data ht hm p

/-- Slots of other sectors leave the sector of slot `p` alone: P2L gives different slots different sectors (R76). -/
theorem foldl_reconcileSlot_block (ht : t ≤ 34) (himg : img.wf 143360 = true) (hp2l : P.p2l.toList.Nodup)
    {ps : List (Fin 16)} {p : Fin 16} (hp : p ∉ ps) :
    (ps.foldl (reconcileSlot P data t) img).block (sectorAddr t (p2l P p).val) 256 =
      img.block (sectorAddr t (p2l P p).val) 256 := by
  refine Memory.block_congr fun k hk => foldl_reconcileSlot_read ht himg fun q hq => ?_
  have hne : (p2l P q).val ≠ (p2l P p).val := fun heq =>
    hp (Function.LeftInverse.injective (l2p_p2l hp2l) (Fin.ext heq) ▸ hq)
  simp only [sectorAddr]
  omega

/-- After all 16 slots the sector of slot `p` is what slot `p` alone would make of it (R145). -/
theorem reconcileImage_block (ht : t ≤ 34) (himg : img.wf 143360 = true) (hp2l : P.p2l.toList.Nodup) (p : Fin 16) :
    (reconcileImage P data t img).block (sectorAddr t (p2l P p).val) 256 =
      (reconcileSlot P data t img p).block (sectorAddr t (p2l P p).val) 256 := by
  obtain ⟨before, after, hsplit⟩ := List.append_of_mem (List.mem_finRange p)
  have hnodup := List.nodup_finRange 16
  rw [hsplit, List.nodup_middle, List.nodup_cons, List.mem_append, not_or] at hnodup
  obtain ⟨⟨hbefore, hafter⟩, -⟩ := hnodup
  have hmid := foldl_reconcileSlot_wf (P := P) (data := data) ht himg before
  rw [reconcileImage, hsplit, List.foldl_append, List.foldl_cons,
    foldl_reconcileSlot_block ht (reconcileSlot_wf P data ht hmid p) hp2l hafter]
  cases h : fieldDec P (data.block (fieldAddr p.val) 346) with
  | ok raw => rw [reconcileSlot_block_self ht hmid h, reconcileSlot_block_self ht himg h]
  | error e => rw [reconcileSlot_of_error h, reconcileSlot_of_error h, foldl_reconcileSlot_block ht himg hp2l hbefore]

theorem reconcileImage_block_of_ok (ht : t ≤ 34) (himg : img.wf 143360 = true) (hp2l : P.p2l.toList.Nodup)
    {p : Fin 16} {raw : List Byte} (h : fieldDec P (data.block (fieldAddr p.val) 346) = .ok raw) :
    (reconcileImage P data t img).block (sectorAddr t (p2l P p).val) 256 = raw := by
  rw [reconcileImage_block ht himg hp2l, reconcileSlot_block_self ht himg h]

/-- No byte outside the track is written (R145). -/
theorem reconcileImage_read_outside (ht : t ≤ 34) (himg : img.wf 143360 = true) {a : Nat}
    (ha : ¬(t * 4096 ≤ a ∧ a < t * 4096 + 4096)) : (reconcileImage P data t img).read a = img.read a := by
  rw [reconcileImage, foldl_reconcileSlot_read ht himg fun p _ hp => ha (track_of_sector (p2l P p) hp)]

end

/-! ### TC.RECONCILE -/

/-- The state TC.RECONCILE of the cached track `t` leaves (R145, R147). -/
def State.reconciled (s : State) (t : Nat) : State :=
  { notifySave t { s with img := reconcileImage s.params s.cache.data t s.img } with answer := .ok }

theorem reconcile_of_cached {s : State} {t : Nat} (hcached : s.cache.track = some t) (hloaded : s.imgLoaded = true)
    (ht : t ≤ 34) : reconcile s = .next (s.reconciled t) := by
  rw [reconcile, hcached]
  dsimp only
  rw [if_neg (by simp [hloaded]), if_pos (sectorAddr_track_le ht)]
  rfl

theorem exec_tcReconcile_of_idle {s : State} (hidle : s.wc.state = .idle) : exec .tcReconcile s = reconcile s :=
  guarded_of_idle hidle _

theorem fieldDec_of_exec_bytes {s : State} {d raw : List Byte}
    (h : exec (.fieldDec d) s = .next { s with answer := .bytes raw }) : fieldDec s.params d = .ok raw := by
  change execFieldDec d s = _ at h
  unfold execFieldDec at h
  split at h
  · cases answer_eq_next_iff.1 h
    assumption
  · cases answer_eq_next_iff.1 h

theorem fieldDec_of_exec_skip {s : State} {d : List Byte} {e : ErrorOutcome}
    (h : exec (.fieldDec d) s = .next { s with answer := .skip e }) : fieldDec s.params d = .error e := by
  change execFieldDec d s = _ at h
  unfold execFieldDec at h
  split at h
  · cases answer_eq_next_iff.1 h
  · cases answer_eq_next_iff.1 h
    assumption

/-- Settles O41: the 16 slots as a fold, in which only slot `p` writes the sector of slot `p`. -/
theorem tcReconcileWritesDecodedSlots : Obligations.TcReconcileWritesDecodedSlots := by
  unfold Obligations.TcReconcileWritesDecodedSlots
  intro s t hidle hcached ht hloaded himg hP
  obtain ⟨-, -, -, -, -, hp2l⟩ := hP
  refine ⟨reconcileImage s.params s.cache.data t s.img, Config.storageAnswer s.draws, ?_, fun p l hl => ?_,
    fun a ha => reconcileImage_read_outside ht himg ha⟩
  · exact (exec_tcReconcile_of_idle hidle).trans (reconcile_of_cached hcached hloaded ht)
  · obtain rfl : p2l s.params p = l := p2l_getElem?_eq_some_iff.1 hl
    refine ⟨fun raw hraw => ?_, fun e he => ?_⟩
    · exact reconcileImage_block_of_ok ht himg hp2l (fieldDec_of_exec_bytes hraw)
    · have hskip := reconcileImage_block (data := s.cache.data) ht himg hp2l p
      rwa [reconcileSlot_of_error (fieldDec_of_exec_skip he)] at hskip

/-! ### TC.SELECT -/

theorem exec_tcSelect_of_cached {s : State} {T : Nat} (hidle : s.wc.state = .idle) (hT : T ≤ 34)
    (hcached : s.cache.track = some T) : exec (.tcSelect T) s = .next { s with answer := .ok } :=
  (guarded_of_idle hidle _).trans ((if_neg (Nat.not_lt.2 hT)).trans (if_pos hcached))

theorem exec_tcSelect_of_other {s : State} {T : Nat} (hidle : s.wc.state = .idle) (hT : T ≤ 34)
    (hother : s.cache.track ≠ some T) : exec (.tcSelect T) s = changeTrack T s :=
  (guarded_of_idle hidle _).trans ((if_neg (Nat.not_lt.2 hT)).trans (if_neg hother))

/-- The state with its cache marked clean. -/
def State.clean (s : State) : State := { s with cache := { s.cache with dirty := false } }

/-- The state with the reader started on the cache if it was stopped (R123). -/
def State.started (s : State) : State :=
  { s with
    rd := if s.rd.run = true then s.rd else { run := true, buf := s.cache.data, filled := true, byte := 0, bit := 0 }
    answer := .ok }

theorem startReader_of_idle {s : State} (hidle : s.wc.state = .idle) (hvalid : s.cache.track.isSome = true) :
    startReader s = .next s.started := by
  rw [startReader, State.started]
  by_cases hrun : s.rd.run = true
  · rw [if_neg (by simp [hrun]), if_pos hrun]
    rfl
  · rw [if_pos ⟨by simpa using hrun, hidle⟩, if_pos hvalid, if_neg hrun]
    rfl

/-- A change of track from the state in which the cache, if it was dirty, has been reconciled (R144). -/
theorem changeTrack_of_reconciled {s u : State} {T : Nat}
    (hu : (if s.cache.dirty then reconcile s else .next s) = .next u) (hidle : u.wc.state = .idle)
    (hloaded : u.imgLoaded = true) (hT : T ≤ 34) : changeTrack T s = .next (u.rebuilt T).clean.started := by
  rw [changeTrack, hu, andThen_next, rebuild_of_loaded hloaded hT]
  exact startReader_of_idle hidle rfl

theorem changeTrack_of_clean {s : State} {T : Nat} (hidle : s.wc.state = .idle) (hclean : s.cache.dirty = false)
    (hloaded : s.imgLoaded = true) (hT : T ≤ 34) : changeTrack T s = .next (s.rebuilt T).clean.started :=
  changeTrack_of_reconciled (if_neg (by simp [hclean])) hidle hloaded hT

theorem changeTrack_of_dirty {s : State} {T t : Nat} (hidle : s.wc.state = .idle) (hdirty : s.cache.dirty = true)
    (hcached : s.cache.track = some t) (ht : t ≤ 34) (hloaded : s.imgLoaded = true) (hT : T ≤ 34) :
    changeTrack T s = .next ((s.reconciled t).rebuilt T).clean.started :=
  changeTrack_of_reconciled ((if_pos hdirty).trans (reconcile_of_cached hcached hloaded ht)) hidle hloaded hT

/-- Settles O42: the two guards of TC.SELECT, and what a change of track makes of a clean cache. -/
theorem tcSelectOfCachedAndCleanTracks : Obligations.TcSelectOfCachedAndCleanTracks := by
  unfold Obligations.TcSelectOfCachedAndCleanTracks
  refine fun s T hidle hT => ⟨exec_tcSelect_of_cached hidle hT, fun hother hclean hloaded => ?_⟩
  exact ⟨s.rebuilt T, (exec_tcRebuild_of_idle hidle).trans (rebuild_of_loaded hloaded hT),
    (exec_tcSelect_of_other hidle hT hother).trans (changeTrack_of_clean hidle hclean hloaded hT)⟩

/-- Settles O43: a dirty cache is reconciled, and its dirty bit leaves no trace in the cache rebuilt after that. -/
theorem tcSelectReconcilesADirtyCache : Obligations.TcSelectReconcilesADirtyCache := by
  unfold Obligations.TcSelectReconcilesADirtyCache
  intro s T t hidle hT hcached ht hne hdirty hloaded
  have hother : s.cache.track ≠ some T := by rwa [hcached, ne_eq, Option.some_inj]
  have hclean : changeTrack T (s.reconciled t).clean = .next ((s.reconciled t).rebuilt T).clean.started :=
    changeTrack_of_clean hidle rfl hloaded hT
  refine ⟨s.reconciled t, ((s.reconciled t).rebuilt T).clean.started, ?_, ?_, ?_⟩
  · exact (exec_tcReconcile_of_idle hidle).trans (reconcile_of_cached hcached hloaded ht)
  · exact (exec_tcSelect_of_other (s := (s.reconciled t).clean) hidle hT hother).trans hclean
  · exact (exec_tcSelect_of_other hidle hT hother).trans (changeTrack_of_dirty hidle hdirty hcached ht hloaded hT)

end Sys2Proof.Machine
end

section
/-! PROOFS. The write-through law: a captured sector reaches the image by the next change of track (R139, R145,
R154). -/

namespace Sys2Proof.Machine

/-! ### What the slots of the cache decode to -/

theorem Memory.block_take (m : Memory) (a : Nat) {n j : Nat} (hj : j ≤ n) : (m.block a n).take j = m.block a j := by
  simpa using Memory.block_drop_take m a (n := n) (k := 0) (j := j) (by omega)

/-- An encoded data field decodes to the sector it was made of (R106, R108). -/
theorem fieldDec_dataPrologue_nicEnc {P : Params} (hP : P.Admissible) {raw : List Byte} (hraw : raw.length = 256) :
    fieldDec P (dataPrologue ++ nicEnc P raw) = .ok raw := by
  have hdec := nicDec_nicEnc_append hP hraw []
  rw [List.append_nil] at hdec
  rw [fieldDec_dataPrologue_append, hdec]
  rfl

/-- A slot of a rebuilt cache decodes to the sector it was rebuilt from (R146). -/
theorem fieldDec_ofBytes_trkEnc {P : Params} (hP : P.Admissible) (img : Memory) (T : Nat) (p : Fin 16) :
    fieldDec P ((Memory.ofBytes 0 (trkEnc P img T)).block (fieldAddr p.val) 346) =
      .ok (img.block (sectorAddr T (p2l P p).val) 256) := by
  have hrecord : (Memory.ofBytes 0 (trkEnc P img T)).block (p.val * 416) 416 =
      secEnc P T p (img.block (sectorAddr T (p2l P p).val) 256) := block_ofBytes_trkEnc P img T (BitVec.ofFin p)
  have hsector := Memory.block_length img (sectorAddr T (p2l P p).val) 256
  rw [fieldAddr, ← Memory.block_drop_take _ _ (n := 416) (by decide), hrecord, secEnc_dataField P T p hsector,
    fieldDec_dataPrologue_nicEnc hP hsector]

/-- The field just installed in slot `p` stands there with its first 346 bytes (R139). -/
theorem block_installed_self {data buf : Memory} (hdata : data.wf 6656 = true) (p : Fin 16) {len : Nat}
    (hlen : 346 ≤ len) :
    (data.writeList (fieldAddr p.val) (buf.block 0 (min len 349))).block (fieldAddr p.val) 346 = buf.block 0 346 := by
  have hfit := fieldAddr_add_le p.isLt len
  have hback := Memory.block_writeList hdata (buf.block 0 (min len 349)) (by rwa [Memory.block_length])
  rw [Memory.block_length] at hback
  have hwithin : 346 ≤ min len 349 := by omega
  rw [← Memory.block_take _ _ hwithin, hback, Memory.block_take _ _ hwithin]

/-- Installing in slot `p` leaves the fields of the other slots alone (R42, R139). -/
theorem block_installed_other {data buf : Memory} (hdata : data.wf 6656 = true) {p q : Fin 16} (hne : q ≠ p)
    (len : Nat) :
    (data.writeList (fieldAddr p.val) (buf.block 0 (min len 349))).block (fieldAddr q.val) 346 =
      data.block (fieldAddr q.val) 346 := by
  have hfit := fieldAddr_add_le p.isLt len
  have hslot : q.val ≠ p.val := fun heq => hne (Fin.ext heq)
  refine Memory.block_congr fun k hk => ?_
  rw [Memory.read_writeList hdata _ (by rwa [Memory.block_length]), Memory.block_length, if_neg]
  simp only [fieldAddr]
  omega

/-! ### The write-back of one changed slot -/

/-- Each byte of a track lies in one of its 16 sectors (R41). -/
theorem exists_sector_of_track {t a : Nat} (ha : t * 4096 ≤ a ∧ a < t * 4096 + 4096) :
    ∃ (l : Fin 16) (k : Nat), k < 256 ∧ a = sectorAddr t l.val + k := by
  rw [Nat.mul_comm] at ha
  refine ⟨⟨(a - 4096 * t) / 256, by omega⟩, (a - 4096 * t) % 256, by omega, ?_⟩
  rw [sectorAddr]
  dsimp only
  omega

/-- When every slot but `p` decodes to the sector it has in the image, TC.RECONCILE changes no byte outside the sector
of slot `p`. -/
theorem reconcileImage_read_of_others_agree {P : Params} (hp2l : P.p2l.toList.Nodup) {data img : Memory} {t : Nat}
    (ht : t ≤ 34) (himg : img.wf 143360 = true) {p : Fin 16}
    (hothers : ∀ q ≠ p, fieldDec P (data.block (fieldAddr q.val) 346) =
      .ok (img.block (sectorAddr t (p2l P q).val) 256))
    {a : Nat} (ha : ¬(sectorAddr t (p2l P p).val ≤ a ∧ a < sectorAddr t (p2l P p).val + 256)) :
    (reconcileImage P data t img).read a = img.read a := by
  by_cases htrack : t * 4096 ≤ a ∧ a < t * 4096 + 4096
  · obtain ⟨l, k, hk, rfl⟩ := exists_sector_of_track htrack
    obtain ⟨q, rfl⟩ : ∃ q, p2l P q = l := ⟨l2p P l, p2l_l2p hp2l l⟩
    have hne : q ≠ p := by
      rintro rfl
      exact ha ⟨Nat.le_add_right _ _, Nat.add_lt_add_left hk _⟩
    have hsector := reconcileImage_block_of_ok ht himg hp2l (hothers q hne)
    rw [← Memory.block_getD _ _ 256 k hk, hsector, Memory.block_getD _ _ 256 k hk]
  · exact reconcileImage_read_outside ht himg htrack

/-! ### WC.EXIT and the next change of track -/

/-- The state a WC.EXIT leaves that installs its field (R138, R139). -/
def State.installed (s : State) : State :=
  { restoreReader s.flushing with
    cache :=
      { s.cache with
        data := s.cache.data.writeList (fieldAddr s.wc.phys) (s.wc.buf.block 0 (min s.wc.len 349))
        dirty := true }
    wc := { s.wc with state := .idle, timer := false }
    answer := .ok }

theorem exec_wcExit_installs {s : State} (hstate : s.wc.state = .sampling) (hphys : s.wc.phys < 16)
    (hpass : completionOutcome s.wc.len (s.wc.buf.block 0 s.wc.len) s.wc.known s.cache.track = none) :
    exec .wcExit s = .next s.installed := by
  rw [exec_wcExit_of_sampling hstate, completeField_installs (s := restoreReader s.flushing) hphys hpass]
  rfl

/-- Settles O44: the installed field decodes to the captured sector, and the other slots to the sectors they already
have in the image, so that TC.RECONCILE, which a dirty cache makes TC.SELECT begin with, changes the one sector. -/
theorem writeThroughLaw : Obligations.WriteThroughLaw := by
  unfold Obligations.WriteThroughLaw
  intro s T T' p l raw payload hmemories hP hloaded hT hT' hne hcached _ hmirror hstate hknown hphys hl hraw hpayload
    hlen _ hfield
  obtain ⟨himg, hdata, -, -⟩ := hmemories
  obtain rfl : nicEnc s.params raw = payload := Answer.bytes.inj (answer_eq_next_iff.1 hpayload)
  obtain rfl : p2l s.params p = l := p2l_getElem?_eq_some_iff.1 hl
  have hp2l : s.params.p2l.toList.Nodup := by
    obtain ⟨-, -, -, -, -, hp2l⟩ := hP
    exact hp2l
  have hpass : completionOutcome s.wc.len (s.wc.buf.block 0 s.wc.len) s.wc.known s.cache.track = none := by
    have hprologue : (s.wc.buf.block 0 s.wc.len).take 3 = dataPrologue := by
      rw [Memory.block_take _ _ (by omega), ← Memory.block_take _ _ (show 3 ≤ 346 by decide), hfield]
      rfl
    exact completionOutcome_eq_none.2 ⟨by omega, hprologue, hknown, by rw [hcached]; rfl⟩
  have hinstalled : fieldDec s.params (s.installed.cache.data.block (fieldAddr p.val) 346) = .ok raw := by
    rw [State.installed, hphys]
    dsimp only
    rw [block_installed_self hdata p hlen, hfield]
    exact fieldDec_dataPrologue_nicEnc hP hraw
  have hothers : ∀ q ≠ p, fieldDec s.params (s.installed.cache.data.block (fieldAddr q.val) 346) =
      .ok (s.img.block (sectorAddr T (p2l s.params q).val) 256) := fun q hq => by
    rw [State.installed, hphys]
    dsimp only
    rw [block_installed_other hdata hq, hmirror, fieldDec_ofBytes_trkEnc hP]
  have hother : s.installed.cache.track ≠ some T' := fun heq =>
    hne (Option.some_inj.1 (heq.symm.trans hcached))
  refine ⟨s.installed, ((s.installed.reconciled T).rebuilt T').clean.started,
    exec_wcExit_installs hstate (hphys ▸ p.isLt) hpass, ?_, ?_, fun a ha => ?_, rfl, rfl⟩
  · exact (exec_tcSelect_of_other rfl hT' hother).trans (changeTrack_of_dirty rfl rfl hcached hT hloaded hT')
  · exact reconcileImage_block_of_ok hT himg hp2l hinstalled
  · exact reconcileImage_read_of_others_agree hp2l hT himg hothers ha

end Sys2Proof.Machine
end

section
/-! PROOFS. FAC.TICK and FAC.LOAD (R148, R149). -/

namespace Sys2Proof.Machine

/-! ### FAC.TICK during a capture -/

/-- Settles O45: STP.SAMPLE is the tracker with an answer, which FAC.TICK replaces by its own. -/
theorem facTickDuringACaptureOnlyTracks : Obligations.FacTickDuringACaptureOnlyTracks := by
  unfold Obligations.FacTickDuringACaptureOnlyTracks
  intro s sample h
  obtain ⟨a, hsample⟩ := execStpSample_next sample s
  exact ⟨_, hsample, execFacTick_armed h sample⟩

/-! ### FAC.TICK outside a capture -/

/-- A change of track is possible from a sound cache of a loaded image, and ends with the track cached (R144). -/
theorem exists_changeTrack {s : State} {T : Nat} (hcache : s.cache.Sound s.imgLoaded) (hidle : s.wc.state = .idle)
    (hloaded : s.imgLoaded = true) (hT : T ≤ 34) : ∃ u, changeTrack T s = .next u ∧ u.cache.track = some T := by
  cases hdirty : s.cache.dirty with
  | false => exact ⟨_, changeTrack_of_clean hidle hdirty hloaded hT, rfl⟩
  | true =>
    obtain ⟨t, hcached⟩ := Option.isSome_iff_exists.1 (hcache.dirty hdirty)
    obtain ⟨ht, -⟩ := hcache.track t hcached
    exact ⟨_, changeTrack_of_dirty hidle hdirty hcached ht hloaded hT, rfl⟩

/-- Once no capture is armed, FAC.TICK goes on from the state the tracker left (R148). -/
theorem execFacTick_of_idle {s : State} (hidle : s.wc.state = .idle) (sample : BitVec 4) :
    execFacTick sample s =
      andThen
        (if (sampleHead sample s).cache.track = some (sampleHead sample s).head.log then .next (sampleHead sample s)
          else exec (.tcSelect (sampleHead sample s).head.log) (sampleHead sample s))
        fun u => answer .ok (advanceRot u) :=
  if_neg (by rwa [sampleHead_wc, not_armed_iff])

/-- A change of track ends with its own answer, whatever the last operation answered. -/
theorem changeTrack_answer (T : Nat) (a : Answer) (s : State) :
    changeTrack T { s with answer := a } = changeTrack T s := by
  have hrebuild (u : State) : rebuild T { u with answer := a } = rebuild T u := rfl
  have hreconcile : reconcile { s with answer := a } = reconcile s := rfl
  unfold changeTrack
  rw [hreconcile]
  dsimp only
  split
  · rfl
  · rw [andThen_next, hrebuild, andThen_next]

/-- Settles O46: both branches of step 3, and the same change of track whether it starts from the tracker's state or
from the one STP.SAMPLE answers. -/
theorem facTickSelectsTheHeadsTrack : Obligations.FacTickSelectsTheHeadsTrack := by
  unfold Obligations.FacTickSelectsTheHeadsTrack
  intro s sample hinv hidle hloaded
  have hs := (s.inv_iff_sound.1 hinv).sampleHead sample
  have hidle' : (sampleHead sample s).wc.state = .idle := by rwa [sampleHead_wc]
  have hloaded' : (sampleHead sample s).imgLoaded = true := by rwa [sampleHead_imgLoaded]
  have htick : exec (.facTick sample) s = _ := execFacTick_of_idle hidle sample
  obtain ⟨a, hsample⟩ := execStpSample_next sample s
  by_cases hcached : (sampleHead sample s).cache.track = some (sampleHead sample s).head.log
  · rw [if_pos hcached] at htick
    exact ⟨_, _, _, hsample, fun _ => rfl, fun hother => absurd hcached hother, htick, hcached⟩
  · have hT : (sampleHead sample s).head.log ≤ 34 := by
      obtain ⟨hphys, hlog⟩ := hs.head
      omega
    obtain ⟨u, hu, htrack⟩ := exists_changeTrack hs.cache hidle' hloaded' hT
    rw [if_neg hcached, exec_tcSelect_of_other hidle' hT hcached, hu] at htick
    have hselect := exec_tcSelect_of_other (s := { sampleHead sample s with answer := a }) hidle' hT hcached
    rw [changeTrack_answer, hu] at hselect
    exact ⟨_, u, _, hsample, fun heq => absurd heq hcached, fun _ => hselect, htick, htrack⟩

/-! ### FAC.LOAD -/

/-- Inside IMG the image reads as the operand, zero-padded; behind it nothing is listed (R149). -/
theorem imageOf_read (bytes : List Byte) {a : Nat} (ha : a < 143360) :
    (imageOf bytes).read a = bytes.getD a 0x00#8 := by
  rw [imageOf, Memory.read_ofBytes_zero, List.getD_eq_getElem?_getD, List.getElem?_take_of_lt ha,
    List.getD_eq_getElem?_getD]

/-- Settles O47: the guard of R55, and the image, byte by byte, in the state FAC.LOAD leaves. -/
theorem facLoadReplacesTheImage : Obligations.FacLoadReplacesTheImage := by
  unfold Obligations.FacLoadReplacesTheImage
  intro s bytes
  refine ⟨fun hbusy => guarded_eq_refused hbusy _, fun hidle => ?_⟩
  exact ⟨imageOf bytes, s.head.force s.params.bringup.val s.pin.phase, Config.imageName s.draws,
    guarded_of_idle hidle _, fun a ha => imageOf_read bytes ha,
    fun a ha => Memory.read_above (imageOf_wf bytes) ha, rfl⟩

end Sys2Proof.Machine
end

section
/-! PROOFS. The debug commands DBG.RDSEC, DBG.WRSEC and DBG.DUMP (R150, R151, R153). -/

namespace Sys2Proof.Machine

theorem inRange_eq_true_iff {t sec : Nat} : inRange t sec = true ↔ t ≤ 34 ∧ sec ≤ 15 := by simp [inRange]

theorem inRange_eq_false_iff {t sec : Nat} : inRange t sec = false ↔ 34 < t ∨ 15 < sec := by
  rw [← Bool.not_eq_true, inRange_eq_true_iff]
  omega

/-- Byte `k` of a block. -/
theorem Memory.block_getElem? (m : Memory) (a : Nat) {n k : Nat} (hk : k < n) :
    (m.block a n)[k]? = some (m.read (a + k)) := by
  rw [Memory.block, List.getElem?_map, List.getElem?_range hk, Option.map_some]

/-! ### DBG.RDSEC and DBG.DUMP -/

theorem exec_dbgRdsec_of_inRange {s : State} {t sec : Nat} (hrange : inRange t sec = true)
    (hloaded : s.imgLoaded = true) :
    exec (.dbgRdsec t sec) s = .next { s with answer := .bytes (s.img.block (sectorAddr t sec) 256) } := by
  have hvalue : s.holdsValue .img = true := hloaded
  change execDbgRdsec t sec s = _
  rw [execDbgRdsec, if_neg (by simp [hrange]), readBlock, if_neg (by simp [hvalue]),
    if_pos (sectorAddr_add_le hrange)]
  rfl

theorem exec_dbgRdsec_of_outOfRange {t sec : Nat} (hrange : inRange t sec = false) (s : State) :
    exec (.dbgRdsec t sec) s = .next { s with answer := .error .range } := if_pos hrange

theorem exec_dbgDump_invalid {s : State} (h : s.cache.track = none) :
    exec .dbgDump s = .next { s with answer := .dump none s.cache.dirty none } := by
  change execDbgDump s = _
  rw [execDbgDump, h]
  rfl

theorem exec_dbgDump_valid {s : State} {t : Nat} (h : s.cache.track = some t) :
    exec .dbgDump s = .next { s with answer := .dump (some t) s.cache.dirty (some (s.cache.data.block 0 6656)) } := by
  change execDbgDump s = _
  rw [execDbgDump, h]
  rfl

/-- Settles O48: the range test and the block read of DBG.RDSEC, and DBG.DUMP by the tag of the cache. -/
theorem dbgRdsecAndDumpOnlyRead : Obligations.DbgRdsecAndDumpOnlyRead := by
  unfold Obligations.DbgRdsecAndDumpOnlyRead
  refine fun s => ⟨fun t sec ht hsec hloaded => ?_, fun t sec hout => ?_, exec_dbgDump_invalid, fun t hcached => ?_⟩
  · exact ⟨_, exec_dbgRdsec_of_inRange (inRange_eq_true_iff.2 ⟨ht, hsec⟩) hloaded, Memory.block_length _ _ _,
      fun b hb => Memory.block_getElem? _ _ hb⟩
  · exact exec_dbgRdsec_of_outOfRange (inRange_eq_false_iff.2 hout) s
  · refine ⟨_, exec_dbgDump_valid hcached, Memory.block_length _ _ _, fun a ha => ?_⟩
    rw [Memory.block_getElem? _ _ ha, Nat.zero_add]

/-! ### DBG.WRSEC -/

theorem exec_dbgWrsec_of_inRange {s : State} {t sec : Nat} {data : List Byte} (hidle : s.wc.state = .idle)
    (hrange : inRange t sec = true) (hdata : data.length = 256) :
    exec (.dbgWrsec t sec data) s = .next { s with img := s.img.writeList (sectorAddr t sec) data, answer := .ok } := by
  refine (guarded_of_idle hidle _).trans ?_
  rw [if_neg (by simp [hrange]), writeBlock, if_pos (by rw [hdata]; exact sectorAddr_add_le hrange)]
  rfl

theorem exec_dbgWrsec_of_outOfRange {s : State} {t sec : Nat} (hidle : s.wc.state = .idle)
    (hrange : inRange t sec = false) (data : List Byte) :
    exec (.dbgWrsec t sec data) s = .next { s with answer := .error .range } :=
  (guarded_of_idle hidle _).trans (if_pos hrange)

/-- Settles O49: the two guards of DBG.WRSEC, and what is read back of the block written. -/
theorem dbgWrsecWritesTheSector : Obligations.DbgWrsecWritesTheSector := by
  unfold Obligations.DbgWrsecWritesTheSector
  refine fun s t sec data => ⟨fun hidle ht hsec hdata himg => ?_, fun hbusy => guarded_eq_refused hbusy _,
    fun hidle hout => exec_dbgWrsec_of_outOfRange hidle (inRange_eq_false_iff.2 hout) data⟩
  have hrange := inRange_eq_true_iff.2 ⟨ht, hsec⟩
  have hfit : sectorAddr t sec + data.length ≤ 143360 := by
    rw [hdata]
    exact sectorAddr_add_le hrange
  refine ⟨_, exec_dbgWrsec_of_inRange hidle hrange hdata, fun b hb => ?_, fun a ha => ?_⟩
  · have hback := Memory.block_getElem? (s.img.writeList (sectorAddr t sec) data) (sectorAddr t sec) (hdata ▸ hb)
    rwa [Memory.block_writeList himg data hfit] at hback
  · rw [Memory.read_writeList himg data hfit, hdata]
    exact if_neg ha

end Sys2Proof.Machine
end

section
/-! PROOFS. Out-of-range tracks and sectors (R160). -/

namespace Sys2Proof.Machine

theorem exec_tcSelect_of_lt {s : State} {T : Nat} (hidle : s.wc.state = .idle) (hT : 34 < T) :
    exec (.tcSelect T) s = .next { s with answer := .error .range } :=
  (guarded_of_idle hidle _).trans (if_pos hT)

/-- Settles O50: in each of the four operations the range test stands before every access, behind no more than the
guard of R55. -/
theorem outOfRangeInputsAreRejected : Obligations.OutOfRangeInputsAreRejected := by
  unfold Obligations.OutOfRangeInputsAreRejected
  intro s t sec data sample
  refine ⟨fun hout => ?rdsec, fun hidle hout => ?wrsec, fun hidle ht => ⟨?settrk, ?select⟩⟩
  case rdsec => exact exec_dbgRdsec_of_outOfRange (inRange_eq_false_iff.2 hout) s
  case wrsec => exact exec_dbgWrsec_of_outOfRange hidle (inRange_eq_false_iff.2 hout) data
  case settrk => exact exec_dbgSettrk_of_lt hidle ht sample
  case select => exact exec_tcSelect_of_lt hidle ht

end Sys2Proof.Machine
end

section
/-! PROOFS. The decoder and the encoder undo each other (R80, R81): each operand reader accepts exactly the bytes that the
encoder writes for the value it gives. -/

namespace Sys2Proof

/-! ### The operand readers -/

@[simp] theorem readByte_eq_ok {bs rest : List Byte} {b : Byte} : readByte bs = .ok (b, rest) ↔ bs = b :: rest := by
  cases bs <;> simp [readByte]

/-- A byte whose bits from `w` up are 0 is the `w`-bit value it is cut to, widened again. -/
theorem eq_setWidth_iff {w : Nat} (hw : w ≤ 8) {b : Byte} {x : BitVec w} :
    b = x.setWidth 8 ↔ b.toNat < 2 ^ w ∧ b.setWidth w = x := by
  have hx : x.toNat < 2 ^ 8 := x.isLt.trans_le (Nat.pow_le_pow_right (by decide) hw)
  simp only [← BitVec.toNat_inj, BitVec.toNat_setWidth, Nat.mod_eq_of_lt hx]
  constructor
  · intro h
    rw [h]
    exact ⟨x.isLt, Nat.mod_eq_of_lt x.isLt⟩
  · rintro ⟨hb, h⟩
    rwa [Nat.mod_eq_of_lt hb] at h

@[simp] theorem readBits_eq_ok {w : Nat} (hw : w ≤ 8) {bs rest : List Byte} {x : BitVec w} :
    readBits w bs = .ok (x, rest) ↔ bs = x.setWidth 8 :: rest := by
  cases bs with
  | nil => simp [readBits, readByte, Decoded.andThen]
  | cons b bs =>
    simp only [readBits, readByte, Decoded.andThen, List.cons.injEq, eq_setWidth_iff hw]
    split <;> simp [*]

@[simp] theorem readLevel_eq_ok {bs rest : List Byte} {level : Bool} :
    readLevel bs = .ok (level, rest) ↔ bs = levelByte level :: rest := by
  cases bs with
  | nil => simp [readLevel, readByte, Decoded.andThen]
  | cons b bs =>
    simp only [readLevel, readByte, Decoded.andThen, List.cons.injEq]
    split_ifs with hlow hhigh
    case pos => cases level <;> simp [hlow, levelByte]
    case pos => cases level <;> simp [hhigh, levelByte]
    case neg => cases level <;> simp [hlow, hhigh, levelByte]

@[simp] theorem readNumber_eq_ok {bs rest : List Byte} {n : Nat} :
    readNumber bs = .ok (n, rest) ↔ n ≤ 255 ∧ bs = BitVec.ofNat 8 n :: rest := by
  simp only [readNumber, Decoded.as_eq_ok, readByte_eq_ok]
  constructor
  · rintro ⟨b, rfl, rfl⟩
    exact ⟨Nat.le_of_lt_succ b.isLt, by simp⟩
  · rintro ⟨hn, rfl⟩
    exact ⟨_, rfl, Nat.mod_eq_of_lt (Nat.lt_succ_of_le hn)⟩

@[simp] theorem readTrack_eq_ok {bs rest : List Byte} {T : Nat} :
    readTrack bs = .ok (T, rest) ↔ T ≤ 34 ∧ bs = BitVec.ofNat 8 T :: rest := by
  simp only [readTrack, Decoded.andThen_eq_ok, readByte_eq_ok]
  constructor
  · rintro ⟨b, bs', rfl, h⟩
    split at h
    case isTrue hb => cases h; exact ⟨hb, by simp⟩
    case isFalse => cases h
  · rintro ⟨hT, rfl⟩
    have hb : (BitVec.ofNat 8 T).toNat = T := Nat.mod_eq_of_lt (hT.trans_lt (by decide))
    exact ⟨_, _, rfl, by rw [hb, if_pos hT]⟩

@[simp] theorem readArray_eq_ok {n : Nat} {bs l rest : List Byte} :
    readArray n bs = .ok (l, rest) ↔ l.length = n ∧ bs = l ++ rest := by
  induction n generalizing bs l with
  | zero => cases l <;> simp [readArray]
  | succ n ih =>
    cases bs with
    | nil => cases l <;> simp [readArray]
    | cons b bs =>
      cases l with
      | nil => simp [readArray, Decoded.as_eq_ok]
      | cons a l => simp [readArray, Decoded.as_eq_ok, ih, and_left_comm]

@[simp] theorem readSequence_eq_ok {bs l rest : List Byte} :
    readSequence bs = .ok (l, rest) ↔ bs = sequenceBytes l ++ rest := by
  induction bs using readSequence.induct generalizing l with
  | case1 => cases l <;> simp [readSequence, sequenceBytes]
  | case2 bs => cases l <;> simp [readSequence.eq_def, sequenceBytes, eq_comm]
  | case3 => cases l <;> simp [readSequence, sequenceBytes]
  | case4 b bs _ ih => cases l <;> simp [readSequence, sequenceBytes, Decoded.as_eq_ok, ih, and_comm]
  | case5 m bs hend hmore => cases l <;> simp [readSequence.eq_def, sequenceBytes, hend, hmore]

@[simp] theorem readImage_eq_ok {bs l rest : List Byte} :
    readImage bs = .ok (l, rest) ↔ l.length ≤ 143360 ∧ bs = sequenceBytes l ++ rest := by
  simp only [readImage, Decoded.andThen_eq_ok, readSequence_eq_ok]
  constructor
  · rintro ⟨l, bs', rfl, h⟩
    split at h
    case isTrue hl => cases h; exact ⟨hl, rfl⟩
    case isFalse => cases h
  · rintro ⟨hl, rfl⟩
    exact ⟨l, rest, rfl, if_pos hl⟩

/-! ### Operations -/

/-- Each alternative of the decoder gives the operation whose id selects it (R81). -/
theorem decode_id {id : Byte} {bs rest : List Byte} {i : Instr} (h : decode (id :: bs) = .ok (i, rest)) : id = i.id := by
  apply BitVec.eq_of_toNat_eq
  simp only [decode] at h
  split at h
  case h_39 => cases h -- an id that R81 does not list
  all_goals
    simp only [Decoded.as_eq_ok, Decoded.andThen_eq_ok, Except.ok.injEq, Prod.mk.injEq] at h
    grind [Instr.id]

/-- The payload of NIC.DEC is laid out as its first 343 bytes and a sequence of the others. -/
theorem nicDec_eq_ok {bs enc rest : List Byte} :
    ((readArray 343 bs).andThen fun enc bs => (readSequence bs).as fun more => Instr.nicDec (enc ++ more)) =
      .ok (.nicDec enc, rest) ↔ 343 ≤ enc.length ∧ bs = enc.take 343 ++ (sequenceBytes (enc.drop 343) ++ rest) := by
  simp only [Decoded.andThen_eq_ok, Decoded.as_eq_ok, readArray_eq_ok, readSequence_eq_ok, Instr.nicDec.injEq]
  constructor
  · rintro ⟨first, _, ⟨hlen, rfl⟩, more, rfl, rfl⟩
    simp [← hlen]
  · rintro ⟨hlen, rfl⟩
    exact ⟨_, _, ⟨List.length_take_of_le hlen, rfl⟩, _, rfl, List.take_append_drop 343 enc⟩

/-- Behind an operation's id the decoder accepts its operand bytes and no others. -/
theorem decode_id_cons_eq_ok {i : Instr} {bs rest : List Byte} :
    decode (i.id :: bs) = .ok (i, rest) ↔ i.wellFormed = true ∧ bs = i.operandBytes ++ rest := by
  cases i with
  | nicDec enc => exact nicDec_eq_ok.trans (by simp [Instr.wellFormed, Instr.operandBytes])
  | _ => -- the operands stand one after the other, each in its reader's range
    simp [decode, Instr.id, Instr.wellFormed, Instr.operandBytes, Decoded.andThen_eq_ok, Decoded.as_eq_ok,
      and_assoc, and_comm, and_left_comm]

theorem decode_eq_ok_iff {bytes rest : List Byte} {i : Instr} :
    decode bytes = .ok (i, rest) ↔ i.wellFormed = true ∧ bytes = encode i ++ rest := by
  cases bytes with
  | nil => simp [decode, encode]
  | cons id bs =>
    rw [encode, List.cons_append, List.cons.injEq, and_left_comm, ← decode_id_cons_eq_ok]
    constructor
    · intro h
      obtain rfl := decode_id h
      exact ⟨rfl, h⟩
    · rintro ⟨rfl, h⟩
      exact h

/-- Settles O1, from right to left of `decode_eq_ok_iff`. -/
theorem decodeEncodeRoundTrip : Obligations.DecodeEncodeRoundTrip := by
  unfold Obligations.DecodeEncodeRoundTrip
  exact fun _ _ hwf => decode_eq_ok_iff.2 ⟨hwf, rfl⟩

/-- Settles O2, from left to right of `decode_eq_ok_iff`. -/
theorem decodeReadsOnlyEncodings : Obligations.DecodeReadsOnlyEncodings := by
  unfold Obligations.DecodeReadsOnlyEncodings
  exact fun _ _ _ => decode_eq_ok_iff.1

end Sys2Proof
end

section
/-! PROOFS. The step takes the operation the pending bytes decode to. -/

namespace Sys2Proof.Machine

theorem step_of_decode_ok {s : State} {i : Instr} {rest : List Byte} (h : decode s.pending = .ok (i, rest)) :
    step s = exec i { s with pending := rest } := by
  have hp : s.pending ≠ [] := by
    intro hp
    rw [hp] at h
    cases h
  rw [step_eq hp, stepNext, fetch, h]

/-- Settles O5: a step with pending bytes, and one without. -/
theorem stepRunsTheDecodedOperation : Obligations.StepRunsTheDecodedOperation := by
  unfold Obligations.StepRunsTheDecodedOperation
  exact ⟨fun _ _ _ => step_of_decode_ok, fun _ => step_idle⟩

end Sys2Proof.Machine
end

section
/-! PROOFS. RESET leaves the table of R39. -/

namespace Sys2Proof.Machine

theorem exec_reset (s : State) :
    exec .reset s = .next (State.afterReset s.params s.pin s.draws s.saves s.pending) := rfl

section
variable (P : Params) (pin : Pins) (draw : Nat) (saves : List SaveTrack) (pending : List Byte)

@[simp] theorem afterReset_cache : (State.afterReset P pin draw saves pending).cache = Cache.reset := rfl
@[simp] theorem afterReset_head :
    (State.afterReset P pin draw saves pending).head = Head.reset P.bringup (Config.resetLastPhase draw) := rfl
@[simp] theorem afterReset_rd : (State.afterReset P pin draw saves pending).rd = Reader.reset := rfl
@[simp] theorem afterReset_wc : (State.afterReset P pin draw saves pending).wc = Capture.reset := rfl
@[simp] theorem afterReset_pin : (State.afterReset P pin draw saves pending).pin = { pin with rd := false } := rfl
@[simp] theorem afterReset_imgLoaded : (State.afterReset P pin draw saves pending).imgLoaded = false := rfl
@[simp] theorem afterReset_params : (State.afterReset P pin draw saves pending).params = P := rfl

/-- No capture is armed after reset (R36, R39). -/
@[simp] theorem afterReset_lineMode : (State.afterReset P pin draw saves pending).lineMode = .read := rfl

end

/-- Settles O53: the state after reset, component by component. -/
theorem resetLeavesTheTableOfReset : Obligations.ResetLeavesTheTableOfReset := by
  unfold Obligations.ResetLeavesTheTableOfReset
  intro s
  refine ⟨_, exec_reset s, ?_⟩
  simp [Cache.reset, Head.reset, Reader.reset, Capture.reset]

end Sys2Proof.Machine
end
